-- ==== Sys2Proof/Word.lean ====
section
/-! DEFINITION. The two word types of the processor (00_scope.md R9: data word 8 bits, processor address 16 bits).
Bit fields, byte order and sign extension are in Decode.lean and under Machine/, where they are used. -/

namespace Sys2Proof

/-- A data byte (R9). -/
abbrev Byte := BitVec 8

/-- A processor-space address or a 16-bit pointer (R9). -/
abbrev Word := BitVec 16

end Sys2Proof
end

