-- ==== Sys2Proof/Config.lean ====
section
/-! DEFINITION. The parameters of 00_scope.md R10. Those with a finite default are fields of `Config`, plain data that a
loaded machine carries and no step changes; those the spec leaves OPEN without any default are opaque constants, of which
nothing can be proved but what their type says. -/

namespace Sys2Proof

/-- The five mirroring modes, in the document's order (10_state.md R80). -/
inductive Mirroring
  | horizontal
  | vertical
  | single0
  | single1
  | four
  deriving DecidableEq, Repr

/-- The three mapper variants (62_mappers.md R650). -/
inductive Variant
  | fixedChr
  | shiftReg
  | scanlineIrq
  deriving DecidableEq, Repr

/-- `UNDOC_MODE` (R10, 46_undocumented.md R481). -/
inductive UndocMode
  | refuse
  | noop
  deriving DecidableEq, Repr

/-- `IRQ_MASK_AT` (R10, 60_exceptions.md R504). -/
inductive IrqMaskAt
  | request
  | service
  deriving DecidableEq, Repr

/-- `EXPANSION_ROUTING` (R10, 20_memory.md R107). -/
inductive ExpansionRouting
  | zero
  | mapper
  deriving DecidableEq, Repr

/-- A parity of the cycle counter: `DMA_ODD_EXTRA` says which one adds the 514th stall cycle (R10, 20_memory.md R130). -/
inductive CycleParity
  | odd
  | even
  deriving DecidableEq, Repr

/-- The two controller ports (10_state.md R51). -/
inductive Port
  | one
  | two
  deriving DecidableEq, Repr

/-- The parameters of R10 that the spec gives a default. -/
structure Config where
  undocMode : UndocMode
  irqMaskAt : IrqMaskAt
  /-- `NMI_DELAY`, in picture steps; R10 says a positive integer. -/
  nmiDelay : Nat
  expansionRouting : ExpansionRouting
  dmaOddExtra : CycleParity
  mmc1InitialControl : BitVec 5
  /-- `INITIAL_MIRROR`, an input of the load (R10, D24). -/
  initialMirror : Mirroring
  /-- `MAPPER_SELECTOR`: which integer selects which variant (62_mappers.md R657). -/
  mapperSelector : List (Int × Variant)
  deriving DecidableEq, Repr

/-- The defaults of R10. `INITIAL_MIRROR` has none: `horizontal` is the model's, DESIGN CHOICE, log 5. -/
def Config.spec : Config where
  undocMode := .refuse
  irqMaskAt := .request
  nmiDelay := 15
  expansionRouting := .zero
  dmaOddExtra := .odd
  mmc1InitialControl := 0x0C#5
  initialMirror := .horizontal
  mapperSelector := [(0, .fixedChr), (3, .fixedChr), (1, .shiftReg), (4, .scanlineIrq)]

/-- `UNDOC_SIZE[op]` less one. OPEN (R10, R481), a free value: log 2. The bound (1, 2 or 3 bytes) is 30_encoding.md R160. -/
opaque Config.undocSizeLessOne : Byte → Fin 3

/-- `UNDOC_CYCLES[op]` less one. OPEN (R10, R481), a free value: log 2. A completed step returns a positive number of cycles
(40_execution_addressing.md R200). -/
opaque Config.undocCyclesLessOne : Byte → Nat

/-- `PALETTE_RGB`: the 32-bit colour of each of the 64 colour indexes. OPEN (R10, 61_ppu.md R587), a free value: log 4. -/
opaque Config.paletteRgb : BitVec 6 → BitVec 32

/-- `BUTTONS(port, read#)`: the host's snapshot at the given draw of the given port (R10, 20_memory.md R140), a free value: log 3. -/
opaque Config.buttons : Port → Nat → Byte

end Sys2Proof
end

