-- ==== Sys2Proof/Machine/State.lean ====
section
/-! DEFINITION. The machine's state, plain data: everything 10_state.md, 60_exceptions.md R522 and 62_mappers.md give the four
components, and the loaded parameters. Also the reasons a step can stop, and the state after reset. -/

namespace Sys2Proof.Machine

/-- A sparse array of `w`-bit values: (index, value) pairs, indexes strictly rising and no value 0. An unlisted index reads 0. -/
abbrev Sparse (w : Nat) := List (Nat × BitVec w)

/-- A byte memory: a list of `Host.Cell`. What an unlisted byte reads as is 0: 10_state.md R90 for RAM, save RAM, OAM, nametable
RAM and palette RAM, 70_reset_and_hazards.md R726's zero-fill for PRG and CHR (log 14). -/
abbrev Memory := Sparse 8

/-- A frame buffer: pixel (px, py) at index 256 * py + px (R72). -/
abbrev Frame := Sparse 32

/-- The eight flags (10_state.md R30, R36). -/
structure Flags where
  c : Bool
  z : Bool
  i : Bool
  d : Bool
  b : Bool
  u : Bool
  v : Bool
  n : Bool
  deriving DecidableEq, Repr

/-- The interrupt latch: "one of {none, NMI, IRQ}" (R41). -/
inductive Latch
  | none
  | nmi
  | irq
  deriving DecidableEq, Repr

/-- The processor (R30, R41, R42, R43). -/
structure Cpu where
  a : Byte
  x : Byte
  y : Byte
  sp : Byte
  pc : Word
  flags : Flags
  latch : Latch
  stall : Nat
  cycles : Nat
  deriving DecidableEq, Repr

/-- One controller port (R51). `draws` is the model's own: how many button snapshots the port has drawn (log 3). -/
structure Controller where
  strobe : Byte
  index : Nat
  draws : Nat
  deriving DecidableEq, Repr

/-- The control latch (R62). -/
structure PpuCtrl where
  ntSelect : BitVec 2
  inc32 : Bool
  spriteTable : Bool
  bgTable : Bool
  spriteSize16 : Bool
  masterSlave : Bool
  nmiOutput : Bool
  deriving DecidableEq, Repr

/-- The mask latch (R63). -/
structure PpuMask where
  grayscale : Bool
  showLeftBg : Bool
  showLeftSprites : Bool
  showBg : Bool
  showSprites : Bool
  emphRed : Bool
  emphGreen : Bool
  emphBlue : Bool
  deriving DecidableEq, Repr

/-- One sprite evaluation buffer (R71): eight 4-bit pixels, the column, the priority bit and the OAM entry. -/
structure SpriteSlot where
  pattern : BitVec 32
  x : Byte
  priority : Bool
  index : BitVec 6
  deriving DecidableEq, Repr

/-- The picture unit (R60 to R72). `fineX` is the spec's register x. -/
structure Ppu where
  dot : Nat
  scanline : Nat
  frame : Nat
  f : Bool
  v : BitVec 15
  t : BitVec 15
  fineX : BitVec 3
  w : Bool
  ctrl : PpuCtrl
  mask : PpuMask
  vblank : Bool
  sprite0Hit : Bool
  spriteOverflow : Bool
  oam : Memory
  oamAddr : Byte
  nt : Memory
  pal : Memory
  readBuffer : Byte
  lastWrite : Byte
  nmiPrevious : Bool
  nmiDelay : Nat
  ntByte : Byte
  atBits : BitVec 4
  patLo : Byte
  patHi : Byte
  tileShift : BitVec 64
  spriteCount : Nat
  sprites : Vector SpriteSlot 8
  front : Frame
  back : Frame
  deriving DecidableEq, Repr

/-- A cartridge byte array and its length (R80). -/
structure Rom where
  len : Nat
  cells : Memory
  deriving DecidableEq, Repr

/-- FIXED_CHR state (R81). -/
structure FixedChr where
  chrBank : BitVec 2
  deriving DecidableEq, Repr

/-- SHIFT_REG state (R82). `prg_mode`, `chr_mode` and the mirroring bits are fields of `control`. -/
structure ShiftReg where
  shift : BitVec 5
  control : BitVec 5
  chrBank0 : BitVec 5
  chrBank1 : BitVec 5
  prgBank : BitVec 4
  prgOff : Vector Nat 2
  chrOff : Vector Nat 2
  deriving DecidableEq, Repr

/-- SCANLINE_IRQ state (R83). -/
structure ScanlineIrq where
  bankSelect : BitVec 3
  prgMode : Bool
  chrMode : Bool
  regs : Vector Byte 8
  prgOff : Vector Nat 4
  chrOff : Vector Nat 8
  irqLatch : Byte
  irqCounter : Byte
  irqEnable : Bool
  deriving DecidableEq, Repr

/-- The variant in use, a tagged value fixed at load (62_mappers.md R650). -/
inductive Mapper
  | fixedChr (st : FixedChr)
  | shiftReg (st : ShiftReg)
  | scanlineIrq (st : ScanlineIrq)
  deriving DecidableEq, Repr

/-- The cartridge: the variant's state and what every mapper holds (R80). -/
structure Cartridge where
  mapper : Mapper
  prg : Rom
  chr : Rom
  sram : Memory
  mirror : Mirroring
  deriving DecidableEq, Repr

/-- The fault codes of 60_exceptions.md R520. -/
inductive FaultCode
  /-- F1 `MapperUnmapped`. -/
  | mapperUnmapped
  /-- F2 `PictureUnmapped`: no access raises it (20_memory.md R124; log 16). -/
  | pictureUnmapped
  deriving DecidableEq, Repr

/-- A read or a write (R520, the last info of F1). -/
inductive Access
  | read
  | write
  deriving DecidableEq, Repr

/-- The component a fault names (R520). -/
inductive Component
  | mapper
  | pictureUnit
  deriving DecidableEq, Repr

/-- The fault record `(code, info)` (R520, R522). `opcode` is the opcode at `PC_op`, and absent when the fault is the fetch of
that opcode itself (log 8). -/
structure FaultRecord where
  code : FaultCode
  address : Word
  opcode : Option Byte
  component : Component
  access : Access
  deriving DecidableEq, Repr

/-- The whole machine. `cfg` holds the parameters the machine was loaded with; no step changes it. -/
structure State where
  cpu : Cpu
  ram : Memory
  port1 : Controller
  port2 : Controller
  ppu : Ppu
  cart : Cartridge
  halted : Bool
  faultRecord : Option FaultRecord
  cfg : Config
  deriving DecidableEq, Repr

/-- Why the machine stops with a fault. -/
inductive Fault
  /-- F1 of 60_exceptions.md R520: a mapper access at an address the variant does not map. Raised by any instruction, or by the
  fetch of one, whose access lies in 0x4020 to 0x5FFF while `EXPANSION_ROUTING = mapper`. `after` is the stuck state R521
  describes: earlier writes made, `halted` set, the record kept; a step from it changes nothing. SAFE: the spec's own stop. -/
  | mapperUnmapped (record : FaultRecord) (after : State)
  deriving DecidableEq, Repr

/-- Why an input has no meaning. -/
inductive Refusal
  /-- An instruction whose meaning is not written yet. Raised by no arm of `exec`. SAFE. -/
  | notModelled (mnemonic : String)
  /-- `UndocumentedOpcode (PC_op, op)` of 60_exceptions.md R523. Raised by the fetch of an undocumented opcode, and by its
  meaning, while `UNDOC_MODE = refuse` (46_undocumented.md R481). SAFE: the spec's own refusal. -/
  | undocumentedOpcode (pc : Word) (op : Byte)
  /-- `UnsupportedMapper(selector)` of R523. Raised by the load only (62_mappers.md R657). SAFE: the spec's own refusal. -/
  | unsupportedMapper (selector : Int)
  deriving DecidableEq, Repr

/-- P = 0x24: interrupt-disable and the unused bit set (70_reset_and_hazards.md R720). -/
def Flags.reset : Flags where
  c := false
  z := false
  i := true
  d := false
  b := false
  u := true
  v := false
  n := false

/-- The processor after reset (R720, R90), with the program counter at the given reset vector. -/
def Cpu.reset (vector : Word) : Cpu where
  a := 0
  x := 0
  y := 0
  sp := 0xFD
  pc := vector
  flags := Flags.reset
  latch := .none
  stall := 0
  cycles := 12

/-- A controller port after reset (70_reset_and_hazards.md R722). -/
def Controller.reset : Controller := ⟨0, 0, 0⟩

/-- An empty sprite buffer (R90). -/
def SpriteSlot.reset : SpriteSlot := ⟨0, 0, false, 0⟩

/-- The picture unit after reset (R721, R90). -/
def Ppu.reset : Ppu where
  dot := 340
  scanline := 240
  frame := 0
  f := false
  v := 0
  t := 0
  fineX := 0
  w := false
  ctrl := ⟨0, false, false, false, false, false, false⟩
  mask := ⟨false, false, false, false, false, false, false, false⟩
  vblank := false
  sprite0Hit := false
  spriteOverflow := false
  oam := []
  oamAddr := 0
  nt := []
  pal := []
  readBuffer := 0
  lastWrite := 0
  nmiPrevious := false
  nmiDelay := 0
  ntByte := 0
  atBits := 0
  patLo := 0
  patHi := 0
  tileShift := 0
  spriteCount := 0
  sprites := Vector.replicate 8 SpriteSlot.reset
  front := []
  back := []

/-- A machine right after load and reset (R722, R726), given its cartridge, its reset vector and its parameters. -/
def State.initial (cfg : Config) (cart : Cartridge) (vector : Word) : State where
  cpu := Cpu.reset vector
  ram := []
  port1 := Controller.reset
  port2 := Controller.reset
  ppu := Ppu.reset
  cart := cart
  halted := false
  faultRecord := none
  cfg := cfg

/-- The machine right after reset. A machine comes into being only by a load (R726), so this is the load of two empty arrays with
selector 0, which R726 zero-fills to one 16 KiB PRG bank and 8 KiB of CHR; its reset vector reads 0x0000 (log 6, proved in
Laws/Load.lean). Parameters: R10's defaults, but `UNDOC_MODE = noop` (log 1) and `INITIAL_MIRROR = horizontal` (log 5). -/
def State.reset : State :=
  State.initial { Config.spec with undocMode := .noop }
    { mapper := .fixedChr ⟨0⟩, prg := ⟨0x4000, []⟩, chr := ⟨0x2000, []⟩, sram := [], mirror := .horizontal } 0x0000

end Sys2Proof.Machine
end

