-- ==== Sys2Proof/Machine/Interrupts.lean ====
section
/-! DEFINITION. Interrupt requests (60_exceptions.md R503, R504), the picture unit's NMI timer (61_ppu.md R591, R594) and the
SCANLINE_IRQ mapper's clock (62_mappers.md R696, R697). -/

namespace Sys2Proof.Machine

/-- `RequestNMI()` (R503): it replaces a pending IRQ. -/
def requestNmi (s : State) : State := { s with cpu := { s.cpu with latch := .nmi } }

/-- The latch takes an IRQ request: not over a pending NMI, and with `IRQ_MASK_AT = request` only while I = 0 (R504). -/
def irqAccepted (s : State) : Bool :=
  s.cpu.latch != .nmi && (s.cfg.irqMaskAt == .service || !s.cpu.flags.i)

/-- `RequestIRQ()` (R504). -/
def requestIrq (s : State) : State :=
  if irqAccepted s then { s with cpu := { s.cpu with latch := .irq } } else s

/-- "NMI output" and vblank (10_state.md R69). -/
def Ppu.nmiLine (p : Ppu) : Bool := p.ctrl.nmiOutput && p.vblank

/-- `NmiChange()` (R591): a rising edge of the line arms the countdown with `NMI_DELAY`. -/
def Ppu.nmiChange (delay : Nat) (p : Ppu) : Ppu :=
  { p with
    nmiDelay := if p.nmiLine && !p.nmiPrevious then delay else p.nmiDelay
    nmiPrevious := p.nmiLine }

/-- `NmiCountdown()` (R594): the request is made when the countdown reaches 0 while the line still holds. -/
def nmiCountdown (s : State) : State :=
  match s.ppu.nmiDelay with
  | 0 => s
  | n + 1 =>
    let s' := { s with ppu := { s.ppu with nmiDelay := n } }
    if n = 0 && s.ppu.nmiLine then requestNmi s' else s'

/-- `rendering`: background or sprites shown (10_state.md R63). -/
def Ppu.rendering (p : Ppu) : Bool := p.mask.showBg || p.mask.showSprites

/-- The counter's next value in `ClockCounter()` (R697). -/
def ScanlineIrq.clocked (st : ScanlineIrq) : ScanlineIrq :=
  { st with irqCounter := if st.irqCounter = 0 then st.irqLatch else st.irqCounter - 1 }

/-- `ClockCounter()` (R697). -/
def clockCounter (st : ScanlineIrq) (s : State) : State :=
  let s' := { s with cart := { s.cart with mapper := .scanlineIrq st.clocked } }
  if st.clocked.irqCounter = 0 && st.clocked.irqEnable then requestIrq s' else s'

/-- The dot at which the SCANLINE_IRQ counter is clocked: dot 260 of lines 0 to 239 and 261, while rendering (R696). -/
def Ppu.clocksScanline (p : Ppu) : Bool :=
  decide (p.dot = 260) && !(decide (240 ≤ p.scanline) && decide (p.scanline ≤ 260)) && p.rendering

/-- `MapperStep()` (62_mappers.md R651, R696). -/
def mapperStep (s : State) : State :=
  match s.cart.mapper with
  | .scanlineIrq st => if s.ppu.clocksScanline then clockCounter st s else s
  | .fixedChr _ => s
  | .shiftReg _ => s

end Sys2Proof.Machine
end

