-- ==== Sys2Proof/Machine/Memory.lean ====
section
/-! DEFINITION. Reading and writing the sparse arrays that hold every memory of the machine, and the canonical form they keep. -/

namespace Sys2Proof.Machine

/-- The value at an index; an unlisted index reads 0 (log 14). -/
def Sparse.read {w : Nat} : Sparse w → Nat → BitVec w
  | [], _ => 0
  | (k, x) :: rest, a => if a = k then x else Sparse.read rest a

/-- Store a value at an index, keeping the canonical form: storing 0 removes the entry. -/
def Sparse.write {w : Nat} : Sparse w → Nat → BitVec w → Sparse w
  | [], a, v => if v = 0 then [] else [(a, v)]
  | (k, x) :: rest, a, v =>
    if a < k then (if v = 0 then (k, x) :: rest else (a, v) :: (k, x) :: rest)
    else if a = k then (if v = 0 then rest else (a, v) :: rest)
    else (k, x) :: Sparse.write rest a v

/-- Every index of the list is at least `lo`, the indexes rise strictly, and no value is 0. -/
def Sparse.wfFrom {w : Nat} : Nat → Sparse w → Bool
  | _, [] => true
  | lo, (k, x) :: rest => decide (lo ≤ k) && decide (x ≠ 0) && Sparse.wfFrom (k + 1) rest

/-- The canonical form: indexes strictly rising, no value 0. -/
def Sparse.wf {w : Nat} (m : Sparse w) : Bool := Sparse.wfFrom 0 m

/-- Every listed index is below `n`. -/
def Sparse.below {w : Nat} (n : Nat) (m : Sparse w) : Bool := m.all fun e => decide (e.1 < n)

/-- The canonical form of a byte memory. -/
abbrev Memory.wf (m : Memory) : Bool := Sparse.wf m

/-- The sparse array of a list of bytes whose first byte has index `base`. -/
def Memory.ofBytesFrom : Nat → List Byte → Memory
  | _, [] => []
  | base, b :: rest =>
    if b = 0 then Memory.ofBytesFrom (base + 1) rest else (base, b) :: Memory.ofBytesFrom (base + 1) rest

/-- The sparse array of a list of bytes. -/
def Memory.ofBytes (bytes : List Byte) : Memory := Memory.ofBytesFrom 0 bytes

end Sys2Proof.Machine
end

