-- ==== Sys2Proof/Machine/Mapper.lean ====
section
/-! DEFINITION. The cartridge mapper engines (62_mappers.md): banked addresses, reads, writes and register writes of the three
variants. The scanline clock, which needs the picture unit, is in Interrupts.lean. -/

namespace Sys2Proof.Machine

/-- `BankOffset(index, size, len)` (R655): an index of 0x80 or more stands for index - 0x100, and negative banks count from the end. -/
def bankOffset (index : Int) (size len : Nat) : Nat :=
  let signed := if index ≥ 0x80 then index - 0x100 else index
  (signed % (len / size : Nat)).toNat * size

/-- The byte of a cartridge array at an index. -/
def Rom.read (r : Rom) (i : Nat) : Byte := Sparse.read r.cells i

/-- The array with a byte stored at an index (R653). -/
def Rom.write (r : Rom) (i : Nat) (v : Byte) : Rom := { r with cells := Sparse.write r.cells i v }

/-! ### SHIFT_REG -/

/-- `prg_mode` is control[3:2] (R82, R672). -/
def ShiftReg.prgMode (st : ShiftReg) : BitVec 2 := st.control.extractLsb' 2 2

/-- `chr_mode` is control[4] (R82, R672). -/
def ShiftReg.chrMode (st : ShiftReg) : Bool := st.control.getLsbD 4

/-- The two 16 KiB program window offsets of `UpdateOffsets()` (R673). -/
def ShiftReg.prgOffsets (st : ShiftReg) (len : Nat) : Vector Nat 2 :=
  let p (i : Int) : Nat := bankOffset i 0x4000 len
  match st.prgMode.toNat with
  | 2 => #v[0, p st.prgBank.toNat]
  | 3 => #v[p st.prgBank.toNat, p (-1)]
  | _ => #v[p (st.prgBank &&& 0xE#4).toNat, p (st.prgBank ||| 0x1#4).toNat]

/-- The two 4 KiB pattern window offsets of `UpdateOffsets()` (R673). -/
def ShiftReg.chrOffsets (st : ShiftReg) (len : Nat) : Vector Nat 2 :=
  let cb (i : Int) : Nat := bankOffset i 0x1000 len
  if st.chrMode then #v[cb st.chrBank0.toNat, cb st.chrBank1.toNat]
  else #v[cb (st.chrBank0 &&& 0x1E#5).toNat, cb (st.chrBank0 ||| 0x01#5).toNat]

/-- `UpdateOffsets()` of SHIFT_REG (R673), for arrays of the given lengths. -/
def ShiftReg.updateOffsets (st : ShiftReg) (prgLen chrLen : Nat) : ShiftReg :=
  { st with prgOff := st.prgOffsets prgLen, chrOff := st.chrOffsets chrLen }

/-- The mirroring modes of control[1:0] (R672). -/
def controlMirror (d : BitVec 5) : Mirroring :=
  match (d.extractLsb' 0 2).toNat with
  | 0 => .single0
  | 1 => .single1
  | 2 => .vertical
  | _ => .horizontal

/-- `WriteControl(d)` (R672). -/
def Cartridge.writeControl (c : Cartridge) (st : ShiftReg) (d : BitVec 5) : Cartridge :=
  { c with
    mapper := .shiftReg ({ st with control := d }.updateOffsets c.prg.len c.chr.len)
    mirror := controlMirror d }

/-- `Dispatch(a, d)` (R671): the range of the fifth write's address selects the register. -/
def Cartridge.dispatchShift (c : Cartridge) (st : ShiftReg) (a : Nat) (d : BitVec 5) : Cartridge :=
  if a < 0xA000 then c.writeControl st d
  else if a < 0xC000 then
    { c with mapper := .shiftReg ({ st with chrBank0 := d }.updateOffsets c.prg.len c.chr.len) }
  else if a < 0xE000 then
    { c with mapper := .shiftReg ({ st with chrBank1 := d }.updateOffsets c.prg.len c.chr.len) }
  else
    { c with mapper := .shiftReg ({ st with prgBank := d.setWidth 4 }.updateOffsets c.prg.len c.chr.len) }

/-- `ShiftWrite(a, v)` (R670): a value with bit 7 resets the register and forces PRG mode 3; otherwise bit 0 enters at bit 4, and
the write that finds the marker in bit 0 dispatches the five bits. -/
def Cartridge.shiftWrite (c : Cartridge) (st : ShiftReg) (a : Nat) (v : Byte) : Cartridge :=
  if v.getLsbD 7 then c.writeControl { st with shift := 0x10#5 } (st.control ||| 0x0C#5)
  else
    let next := (st.shift >>> 1) ||| ((v.setWidth 5 &&& 0x01#5) <<< 4)
    if st.shift.getLsbD 0 then c.dispatchShift { st with shift := 0x10#5 } a next
    else { c with mapper := .shiftReg { st with shift := next } }

/-! ### SCANLINE_IRQ -/

/-- Bank register `R[i]` (R83). -/
def ScanlineIrq.reg (st : ScanlineIrq) (i : Nat) : Byte := st.regs[i]?.getD 0

/-- The four 8 KiB program window offsets of `UpdateOffsets()` (R698). -/
def ScanlineIrq.prgOffsets (st : ScanlineIrq) (len : Nat) : Vector Nat 4 :=
  let p (i : Int) : Nat := bankOffset i 0x2000 len
  if st.prgMode then #v[p (-2), p (st.reg 7).toNat, p (st.reg 6).toNat, p (-1)]
  else #v[p (st.reg 6).toNat, p (st.reg 7).toNat, p (-2), p (-1)]

/-- The eight 1 KiB pattern window offsets of `UpdateOffsets()` (R698): two 2 KiB banks and four 1 KiB banks, in the order of the mode. -/
def ScanlineIrq.chrOffsets (st : ScanlineIrq) (len : Nat) : Vector Nat 8 :=
  let cb (b : Byte) : Nat := bankOffset b.toNat 0x0400 len
  let l0 := cb (st.reg 0 &&& 0xFE#8)
  let l1 := cb (st.reg 0 ||| 0x01#8)
  let l2 := cb (st.reg 1 &&& 0xFE#8)
  let l3 := cb (st.reg 1 ||| 0x01#8)
  let h0 := cb (st.reg 2)
  let h1 := cb (st.reg 3)
  let h2 := cb (st.reg 4)
  let h3 := cb (st.reg 5)
  if st.chrMode then #v[h0, h1, h2, h3, l0, l1, l2, l3] else #v[l0, l1, l2, l3, h0, h1, h2, h3]

/-- `UpdateOffsets()` of SCANLINE_IRQ (R698). -/
def ScanlineIrq.updateOffsets (st : ScanlineIrq) (prgLen chrLen : Nat) : ScanlineIrq :=
  { st with prgOff := st.prgOffsets prgLen, chrOff := st.chrOffsets chrLen }

/-- A register write of SCANLINE_IRQ at 0x8000 to 0xFFFF, but for the mirroring write and the update of the offsets that follows
every one (R690, R691, R692, R694, R695). -/
def ScanlineIrq.writeRegister (st : ScanlineIrq) (a : Nat) (v : Byte) : ScanlineIrq :=
  if a < 0xA000 then
    if a % 2 = 0 then
      { st with prgMode := v.getLsbD 6, chrMode := v.getLsbD 7, bankSelect := v.extractLsb' 0 3 }
    else { st with regs := st.regs.setIfInBounds st.bankSelect.toNat v }
  else if a < 0xC000 then st
  else if a < 0xE000 then
    if a % 2 = 0 then { st with irqLatch := v } else { st with irqCounter := 0 }
  else { st with irqEnable := decide (a % 2 = 1) }

/-- The mirroring mode after a register write of SCANLINE_IRQ (R690, R693). -/
def scanlineMirror (m : Mirroring) (a : Nat) (v : Byte) : Mirroring :=
  if 0xA000 ≤ a ∧ a < 0xC000 ∧ a % 2 = 0 then (if v.getLsbD 0 then .horizontal else .vertical) else m

/-! ### The common contract -/

/-- `chr_addr(a)` of the variant for a picture address below 0x2000 (R661, R676, R698). -/
def Cartridge.chrAddr (c : Cartridge) (a : Nat) : Nat :=
  match c.mapper with
  | .fixedChr st => (st.chrBank.toNat % (c.chr.len / 0x2000)) * 0x2000 + a
  | .shiftReg st => st.chrOff[a / 0x1000]?.getD 0 + a % 0x1000
  | .scanlineIrq st => st.chrOff[a / 0x400]?.getD 0 + a % 0x400

/-- The PRG index of a processor address from 0x8000 (R660, R676, R698). -/
def Cartridge.prgAddr (c : Cartridge) (a : Nat) : Nat :=
  match c.mapper with
  | .fixedChr _ => if a < 0xC000 then a - 0x8000 else (c.prg.len / 0x4000 - 1) * 0x4000 + (a - 0xC000)
  | .shiftReg st => st.prgOff[(a - 0x8000) / 0x4000]?.getD 0 + (a - 0x8000) % 0x4000
  | .scanlineIrq st => st.prgOff[(a - 0x8000) / 0x2000]?.getD 0 + (a - 0x8000) % 0x2000

/-- A pattern read, picture address below 0x2000 (R653). -/
def Cartridge.chrRead (c : Cartridge) (a : Nat) : Byte := c.chr.read (c.chrAddr a)

/-- A pattern write: stored in every variant (R653). -/
def Cartridge.chrWrite (c : Cartridge) (a : Nat) (v : Byte) : Cartridge :=
  { c with chr := c.chr.write (c.chrAddr a) v }

/-- A program read, processor address from 0x8000. -/
def Cartridge.prgRead (c : Cartridge) (a : Nat) : Byte := c.prg.read (c.prgAddr a)

/-- A register write of the variant at 0x8000 to 0xFFFF (R662, R670, R690). -/
def Cartridge.registerWrite (c : Cartridge) (a : Nat) (v : Byte) : Cartridge :=
  match c.mapper with
  | .fixedChr _ => { c with mapper := .fixedChr ⟨v.extractLsb' 0 2⟩ }
  | .shiftReg st => c.shiftWrite st a v
  | .scanlineIrq st =>
    { c with
      mapper := .scanlineIrq ((st.writeRegister a v).updateOffsets c.prg.len c.chr.len)
      mirror := scanlineMirror c.mirror a v }

/-- `MapperRead(a)` (R650, R663, R676, R698); `none` is the protocol violation of R652. -/
def Cartridge.read (c : Cartridge) (a : Nat) : Option Byte :=
  if a < 0x2000 then some (c.chrRead a)
  else if 0x8000 ≤ a then some (c.prgRead a)
  else if 0x6000 ≤ a then some (Sparse.read c.sram (a - 0x6000))
  else none

/-- `MapperWrite(a, v)` (R650, R663, R676, R698); `none` is the protocol violation of R652. -/
def Cartridge.write (c : Cartridge) (a : Nat) (v : Byte) : Option Cartridge :=
  if a < 0x2000 then some (c.chrWrite a v)
  else if 0x8000 ≤ a then some (c.registerWrite a v)
  else if 0x6000 ≤ a then some { c with sram := Sparse.write c.sram (a - 0x6000) v }
  else none

end Sys2Proof.Machine
end

