-- ==== Sys2Proof/Machine/PictureTables.lean ====
section
/-! DEFINITION. The picture unit's tables that 00_scope.md R11 has a model keep as configuration data: the 5x4 mirroring table
(20_memory.md R122) and the bit layouts of the picture registers (61_ppu.md R561 to R563), with the lookups that read them. -/

namespace Sys2Proof.Machine

/-! ### The mirroring table -/

/-- `MirrorTable` (R122), row by row: the physical quadrant of each of the four logical quadrants. -/
def mirrorTable : List (Mirroring × List Nat) :=
  [(.horizontal, [0, 0, 1, 1]),
   (.vertical,   [0, 1, 0, 1]),
   (.single0,    [0, 0, 0, 0]),
   (.single1,    [1, 1, 1, 1]),
   (.four,       [0, 1, 2, 3])]

/-- `MirrorTable[mode][quadrant]` (R121). -/
def mirrorQuadrant (m : Mirroring) (q : Nat) : Nat := ((mirrorTable.lookup m).getD []).getD q 0

/-! ### Register layouts -/

/-- The place of a field in a register byte: its lowest bit and its width. -/
structure BitField where
  low : Nat
  width : Nat
  deriving DecidableEq, Repr

/-- The fields of PPUCTRL (R561). -/
inductive CtrlField
  | ntSelect
  | inc32
  | spriteTable
  | bgTable
  | spriteSize16
  | masterSlave
  | nmiOutput
  deriving DecidableEq, Repr

/-- The fields of PPUMASK (R562). -/
inductive MaskField
  | grayscale
  | showLeftBg
  | showLeftSprites
  | showBg
  | showSprites
  | emphRed
  | emphGreen
  | emphBlue
  deriving DecidableEq, Repr

/-- The fields of PPUSTATUS (R563). -/
inductive StatusField
  | lastWrite
  | spriteOverflow
  | sprite0Hit
  | vblank
  deriving DecidableEq, Repr

/-- The layout of PPUCTRL: R561's table. -/
def ctrlLayout : List (CtrlField × BitField) :=
  [(.ntSelect, ⟨0, 2⟩),
   (.inc32, ⟨2, 1⟩),
   (.spriteTable, ⟨3, 1⟩),
   (.bgTable, ⟨4, 1⟩),
   (.spriteSize16, ⟨5, 1⟩),
   (.masterSlave, ⟨6, 1⟩),
   (.nmiOutput, ⟨7, 1⟩)]

/-- The layout of PPUMASK: R562's table. -/
def maskLayout : List (MaskField × BitField) :=
  [(.grayscale, ⟨0, 1⟩),
   (.showLeftBg, ⟨1, 1⟩),
   (.showLeftSprites, ⟨2, 1⟩),
   (.showBg, ⟨3, 1⟩),
   (.showSprites, ⟨4, 1⟩),
   (.emphRed, ⟨5, 1⟩),
   (.emphGreen, ⟨6, 1⟩),
   (.emphBlue, ⟨7, 1⟩)]

/-- The layout of PPUSTATUS (R563): the flags over the low five bits of `last_write`. -/
def statusLayout : List (StatusField × BitField) :=
  [(.lastWrite, ⟨0, 5⟩),
   (.spriteOverflow, ⟨5, 1⟩),
   (.sprite0Hit, ⟨6, 1⟩),
   (.vblank, ⟨7, 1⟩)]

/-- The bits a byte holds in a field, moved to bit 0. -/
def BitField.get (b : BitField) (v : Byte) : Byte := (v >>> b.low) &&& ((1#8 <<< b.width) - 1#8)

/-- The low bits of a value, moved to the field's place in a byte. -/
def BitField.put (b : BitField) (v : Byte) : Byte := (v &&& ((1#8 <<< b.width) - 1#8)) <<< b.low

/-- The value a layout gives a field of a register byte; 0 for a field it does not list. -/
def fieldOf {α : Type} [DecidableEq α] (layout : List (α × BitField)) (f : α) (v : Byte) : Byte :=
  ((layout.lookup f).map fun b => b.get v).getD 0

/-- A one-bit field. -/
def flagOf {α : Type} [DecidableEq α] (layout : List (α × BitField)) (f : α) (v : Byte) : Bool := (fieldOf layout f v).getLsbD 0

/-- The register byte that a layout makes of its fields' values. -/
def byteOf {α : Type} (layout : List (α × BitField)) (value : α → Byte) : Byte :=
  layout.foldl (fun acc (f, b) => acc ||| b.put (value f)) 0

end Sys2Proof.Machine
end

