-- ==== Sys2Proof/Machine/PpuMemory.lean ====
section
/-! DEFINITION. Picture space (20_memory.md R120 to R124): pattern data through the mapper, nametables through the mirroring table,
palette with aliasing. No picture access faults (R124; log 16). -/

namespace Sys2Proof.Machine

/-- `NtIndex(a)` (R121). -/
def ntIndex (m : Mirroring) (a : Nat) : Nat :=
  let r := (a - 0x2000) % 0x1000
  (mirrorQuadrant m (r / 0x400) * 0x400 + r % 0x400) % 2048

/-- `PalIndex(a)` (R123). -/
def palIndex (a : Nat) : Nat :=
  let i := a % 32
  if 16 ≤ i ∧ i % 4 = 0 then i - 16 else i

/-- `PpuRead(a)` (R120). -/
def ppuRead (s : State) (addr : Nat) : Byte :=
  let a := addr % 0x4000
  if a < 0x2000 then s.cart.chrRead a
  else if a < 0x3F00 then Sparse.read s.ppu.nt (ntIndex s.cart.mirror a)
  else Sparse.read s.ppu.pal (palIndex a)

/-- `PpuWrite(a, v)` (R120). -/
def ppuWrite (s : State) (addr : Nat) (v : Byte) : State :=
  let a := addr % 0x4000
  if a < 0x2000 then { s with cart := s.cart.chrWrite a v }
  else if a < 0x3F00 then { s with ppu := { s.ppu with nt := Sparse.write s.ppu.nt (ntIndex s.cart.mirror a) v } }
  else { s with ppu := { s.ppu with pal := Sparse.write s.ppu.pal (palIndex a) v } }

end Sys2Proof.Machine
end

