-- ==== Sys2Proof/Machine/PpuRender.lean ====
section
/-! DEFINITION. Background fetch and scroll (61_ppu.md R570 to R576), sprites (R580 to R582), and compositing (R585 to R587). -/

namespace Sys2Proof.Machine

/-! ### Background fetch -/

/-- Eight 4-bit pixels, the leftmost in the top bits: each is `base` with bit 0 from `lo` and bit 1 from `hi`, the bit number of
column i being `bitOf i` (R573, R581). -/
def packPixels (base : BitVec 4) (lo hi : Byte) (bitOf : Nat → Nat) : BitVec 32 :=
  [0, 1, 2, 3, 4, 5, 6, 7].foldl (init := 0#32) fun d i =>
    (d <<< 4) ||| (base ||| (BitVec.ofBool (lo.getLsbD (bitOf i))).setWidth 4
      ||| ((BitVec.ofBool (hi.getLsbD (bitOf i))).setWidth 4 <<< 1)).setWidth 32

/-- `FetchNameTable()` (R570). -/
def fetchNameTable (s : State) : State :=
  { s with ppu := { s.ppu with ntByte := ppuRead s (0x2000#15 ||| (s.ppu.v &&& 0x0FFF#15)).toNat } }

/-- The attribute byte's address (R571). -/
def attributeAddress (v : BitVec 15) : BitVec 15 :=
  0x23C0#15 ||| (v &&& 0x0C00#15) ||| ((v >>> 4) &&& 0x0038#15) ||| ((v >>> 2) &&& 0x0007#15)

/-- Which two bits of the attribute byte the tile takes (R571). -/
def attributeShift (v : BitVec 15) : Nat := (((v >>> 4) &&& 0x0004#15) ||| (v &&& 0x0002#15)).toNat

/-- `FetchAttribute()` (R571). -/
def fetchAttribute (s : State) : State :=
  let b := ppuRead s (attributeAddress s.ppu.v).toNat
  { s with ppu := { s.ppu with atBits := ((b >>> attributeShift s.ppu.v).setWidth 4 &&& 0x3#4) <<< 2 } }

/-- The pattern row's address (R572): table, tile and fine Y. -/
def patternAddress (p : Ppu) : Nat :=
  (if p.ctrl.bgTable then 0x1000 else 0) + 16 * p.ntByte.toNat + (p.v.extractLsb' 12 3).toNat

/-- `FetchPatternLow()` (R572). -/
def fetchPatternLow (s : State) : State :=
  { s with ppu := { s.ppu with patLo := ppuRead s (patternAddress s.ppu) } }

/-- `FetchPatternHigh()` (R572). -/
def fetchPatternHigh (s : State) : State :=
  { s with ppu := { s.ppu with patHi := ppuRead s (patternAddress s.ppu + 8) } }

/-- `StoreTileData()` (R573). -/
def Ppu.storeTileData (p : Ppu) : Ppu :=
  { p with tileShift := p.tileShift ||| (packPixels p.atBits p.patLo p.patHi (7 - ·)).setWidth 64 }

/-! ### Scroll -/

/-- `IncrementX()` (R574). -/
def incrementX (v : BitVec 15) : BitVec 15 :=
  if v &&& 0x001F#15 = 31#15 then (v &&& 0x7FE0#15) ^^^ 0x0400#15 else v + 1

/-- `IncrementY()` (R575). -/
def incrementY (v : BitVec 15) : BitVec 15 :=
  if v &&& 0x7000#15 ≠ 0x7000#15 then v + 0x1000#15
  else
    let v0 := v &&& 0x0FFF#15
    let y := (v0 &&& 0x03E0#15) >>> 5
    let flipped := if y = 29#15 then v0 ^^^ 0x0800#15 else v0
    let y' := if y = 29#15 ∨ y = 31#15 then 0#15 else y + 1
    (flipped &&& 0x7C1F#15) ||| (y' <<< 5)

/-- `CopyX()` (R576): the new v. -/
def copyX (v t : BitVec 15) : BitVec 15 := (v &&& 0x7BE0#15) ||| (t &&& 0x041F#15)

/-- `CopyY()` (R576): the new v. -/
def copyY (v t : BitVec 15) : BitVec 15 := (v &&& 0x041F#15) ||| (t &&& 0x7BE0#15)

/-! ### Sprites -/

/-- Byte `k` of OAM entry `i` (R65). -/
def Ppu.oamByte (p : Ppu) (i k : Nat) : Byte := Sparse.read p.oam (4 * i + k)

/-- The sprite height (R580). -/
def Ppu.spriteHeight (p : Ppu) : Nat := if p.ctrl.spriteSize16 then 16 else 8

/-- The pattern row's address of a sprite (R581), with the vertical flip applied. -/
def spriteAddress (p : Ppu) (tile attr : Byte) (row : Nat) : Nat :=
  if p.ctrl.spriteSize16 then
    let r := if attr.getLsbD 7 then 15 - row else row
    let base := (if tile.getLsbD 0 then 0x1000 else 0) + 16 * (tile &&& 0xFE#8).toNat
    if r > 7 then base + 16 + (r - 8) else base + r
  else
    let r := if attr.getLsbD 7 then 7 - row else row
    (if p.ctrl.spriteTable then 0x1000 else 0) + 16 * tile.toNat + r

/-- `SpritePattern(T, A, row)` (R581). -/
def spritePattern (s : State) (tile attr : Byte) (row : Nat) : BitVec 32 :=
  let addr := spriteAddress s.ppu tile attr row
  let pal : BitVec 4 := (attr.setWidth 4 &&& 0x3#4) <<< 2
  packPixels pal (ppuRead s addr) (ppuRead s (addr + 8)) fun i => if attr.getLsbD 6 then i else 7 - i

/-- The row of OAM entry `i` on the next line, when that line crosses the sprite (R580). With N the next line, row = N - 1 - Y;
R580's pseudocode writes it `scanline - Y`, which is the same number but on the pre-render line, where R580's sentence that
every row is negative is followed (DEDUCED, log 12). -/
def Ppu.spriteRow (p : Ppu) (i : Nat) : Option Nat :=
  let next := (p.scanline + 1) % 262
  let y := (p.oamByte i 0).toNat
  if y + 1 ≤ next ∧ next - 1 - y < p.spriteHeight then some (next - 1 - y) else none

/-- The buffer entry for OAM entry `i` at the given row (R580). -/
def spriteSlot (s : State) (i row : Nat) : SpriteSlot where
  pattern := spritePattern s (s.ppu.oamByte i 1) (s.ppu.oamByte i 2) row
  x := s.ppu.oamByte i 3
  priority := (s.ppu.oamByte i 2).getLsbD 5
  index := BitVec.ofNat 6 i

/-- The sprites met so far by `EvaluateSprites()`: how many, and the buffers filled with the first eight. -/
structure Evaluation where
  count : Nat
  slots : Vector SpriteSlot 8

/-- One turn of R580's loop. -/
def evaluateEntry (s : State) (e : Evaluation) (i : Nat) : Evaluation :=
  match s.ppu.spriteRow i with
  | none => e
  | some row =>
    { count := e.count + 1
      slots := if e.count < 8 then e.slots.setIfInBounds e.count (spriteSlot s i row) else e.slots }

/-- R580's loop over the 64 OAM entries, in OAM order. -/
def evaluation (s : State) : Evaluation :=
  (List.range 64).foldl (evaluateEntry s) ⟨0, s.ppu.sprites⟩

/-- `EvaluateSprites()` (R580): at most eight kept, and the overflow flag set when there were more. -/
def evaluateSprites (s : State) : State :=
  let e := evaluation s
  { s with
    ppu := { s.ppu with
      sprites := e.slots
      spriteCount := min e.count 8
      spriteOverflow := s.ppu.spriteOverflow || decide (8 < e.count) } }

/-- The 4-bit pixel of a sprite buffer at screen column `px`, when the column is inside the sprite (R582). -/
def SpriteSlot.pixelAt (sl : SpriteSlot) (px : Nat) : Option (BitVec 4) :=
  if sl.x.toNat ≤ px ∧ px ≤ sl.x.toNat + 7 then
    some ((sl.pattern >>> (4 * (7 - (px - sl.x.toNat)))).setWidth 4)
  else none

/-- A pixel is opaque when it is not 0 modulo 4 (R582, R586). -/
def opaquePixel (c : BitVec 4) : Bool := c.extractLsb' 0 2 != 0

/-- The first opaque pixel at column `px` among the first `n` of a list of buffers (R582). -/
def firstOpaque (px : Nat) : Nat → List SpriteSlot → Option (SpriteSlot × BitVec 4)
  | 0, _ => none
  | _, [] => none
  | n + 1, sl :: rest =>
    match sl.pixelAt px with
    | some c => if opaquePixel c then some (sl, c) else firstOpaque px n rest
    | none => firstOpaque px n rest

/-- `SpritePixel()` (R582): the matching buffer and its pixel; nothing when sprites are disabled or none matches. -/
def Ppu.spritePixel (p : Ppu) (px : Nat) : Option (SpriteSlot × BitVec 4) :=
  if p.mask.showSprites then firstOpaque px p.spriteCount p.sprites.toList else none

/-! ### Compositing -/

/-- `BackgroundPixel()` (R585). -/
def Ppu.backgroundPixel (p : Ppu) : BitVec 4 :=
  if p.mask.showBg then (p.tileShift >>> (32 + 4 * (7 - p.fineX.toNat))).setWidth 4 else 0

/-- What one pixel's combination gives (R586): the palette index c, and whether it is a sprite-zero hit. -/
structure Pixel where
  color : BitVec 5
  hit : Bool
  deriving DecidableEq, Repr

/-- The combination of R586 for screen column `px`, after the left-column masks. -/
def combinePixel (px : Nat) (bg : BitVec 4) (sprite : Option (SpriteSlot × BitVec 4)) : Pixel :=
  match sprite with
  | none => { color := if opaquePixel bg then bg.setWidth 5 else 0, hit := false }
  | some (sl, c) =>
    if opaquePixel bg then
      { color := if sl.priority then bg.setWidth 5 else c.setWidth 5 ||| 0x10#5
        hit := decide (sl.index = 0) && decide (px < 255) }
    else { color := c.setWidth 5 ||| 0x10#5, hit := false }

/-- The pixel of screen column `px` (R586). -/
def Ppu.pixel (p : Ppu) (px : Nat) : Pixel :=
  let bg := if px < 8 ∧ !p.mask.showLeftBg then 0 else p.backgroundPixel
  let sprite := if px < 8 ∧ !p.mask.showLeftSprites then none else p.spritePixel px
  combinePixel px bg sprite

/-- The output colour of a palette index (R586, R587). -/
def Ppu.outputColor (p : Ppu) (c : BitVec 5) : BitVec 32 :=
  Config.paletteRgb ((Sparse.read p.pal (palIndex (0x3F00 + c.toNat))).setWidth 6)

/-- `RenderPixel()` (R586), with the column `px = dot - 1` (D18). -/
def Ppu.renderPixel (p : Ppu) : Ppu :=
  let px := p.dot - 1
  let r := p.pixel px
  { p with
    sprite0Hit := p.sprite0Hit || r.hit
    back := Sparse.write p.back (256 * p.scanline + px) (p.outputColor r.color) }

end Sys2Proof.Machine
end

