-- ==== Sys2Proof/Machine/Picture.lean ====
section
/-! DEFINITION. The picture step (61_ppu.md R551 to R554, R592, R593) and the run of picture and mapper steps that follows a
processor step (60_exceptions.md R500). -/

namespace Sys2Proof.Machine

/-- Scanline 0 to 239 (R552). -/
def Ppu.visibleLine (p : Ppu) : Bool := decide (p.scanline ≤ 239)

/-- Scanline 261 (R552). -/
def Ppu.preLine (p : Ppu) : Bool := decide (p.scanline = 261)

/-- A pre-render or visible line (R552). -/
def Ppu.renderLine (p : Ppu) : Bool := p.visibleLine || p.preLine

/-- Dots 1 to 256 (R552). -/
def Ppu.visibleDot (p : Ppu) : Bool := decide (1 ≤ p.dot) && decide (p.dot ≤ 256)

/-- Dots 321 to 336 (R552). -/
def Ppu.prefetchDot (p : Ppu) : Bool := decide (321 ≤ p.dot) && decide (p.dot ≤ 336)

/-- A fetch dot (R552). -/
def Ppu.fetchDot (p : Ppu) : Bool := p.visibleDot || p.prefetchDot

/-- The wrap to (0, 0): the frame counter and the parity bit change together (R551). -/
def Ppu.nextFrame (p : Ppu) : Ppu := { p with dot := 0, scanline := 0, frame := p.frame + 1, f := !p.f }

/-- `Advance()` (R551), with the odd-frame skip. -/
def Ppu.advance (p : Ppu) : Ppu :=
  if p.rendering && p.f && decide (p.scanline = 261) && decide (p.dot = 339) then p.nextFrame
  else if p.dot + 1 ≤ 340 then { p with dot := p.dot + 1 }
  else if p.scanline + 1 ≤ 261 then { p with dot := 0, scanline := p.scanline + 1 }
  else p.nextFrame

/-- The pixel of a visible dot (R554, step 2). -/
def renderVisible (s : State) : State :=
  if s.ppu.visibleLine && s.ppu.visibleDot then { s with ppu := s.ppu.renderPixel } else s

/-- The fetch of `dot mod 8` (R554, step 3). -/
def fetchByDot (s : State) : State :=
  match s.ppu.dot % 8 with
  | 1 => fetchNameTable s
  | 3 => fetchAttribute s
  | 5 => fetchPatternLow s
  | 7 => fetchPatternHigh s
  | 0 => { s with ppu := s.ppu.storeTileData }
  | _ => s

/-- The shift and fetch of a fetch dot on a render line (R554, step 3). -/
def fetchCycle (s : State) : State :=
  if s.ppu.renderLine && s.ppu.fetchDot then
    fetchByDot { s with ppu := { s.ppu with tileShift := s.ppu.tileShift <<< 4 } }
  else s

/-- The scroll copies and increments of a dot (R554, steps 4 to 6), in R554's order: CopyY, IncrementX, IncrementY, CopyX. -/
def Ppu.scrollCycle (p : Ppu) : Ppu :=
  let v0 := if p.preLine && decide (280 ≤ p.dot) && decide (p.dot ≤ 304) then copyY p.v p.t else p.v
  let v1 := if p.renderLine && p.fetchDot && decide (p.dot % 8 = 0) then incrementX v0 else v0
  let v2 := if p.renderLine && decide (p.dot = 256) then incrementY v1 else v1
  let v3 := if p.renderLine && decide (p.dot = 257) then copyX v2 p.t else v2
  { p with v := v3 }

/-- Dot 257 (R554, step 5): evaluate the next line's sprites when it is visible, otherwise there are none. -/
def spriteCycle (s : State) : State :=
  if s.ppu.dot = 257 then
    if (s.ppu.scanline + 1) % 262 ≤ 239 then evaluateSprites s
    else { s with ppu := { s.ppu with spriteCount := 0 } }
  else s

/-- Steps 2 to 6 of R554, which run only while rendering is enabled. -/
def renderingActions (s : State) : State :=
  if s.ppu.rendering then
    let s' := fetchCycle (renderVisible s)
    spriteCycle { s' with ppu := s'.ppu.scrollCycle }
  else s

/-- `SetVblank()` (R592). -/
def Ppu.setVblank (delay : Nat) (p : Ppu) : Ppu :=
  Ppu.nmiChange delay { p with front := p.back, back := p.front, vblank := true }

/-- `ClearVblank()` (R593). -/
def Ppu.clearVblank (delay : Nat) (p : Ppu) : Ppu :=
  { Ppu.nmiChange delay { p with vblank := false } with sprite0Hit := false, spriteOverflow := false }

/-- Steps 7 and 8 of R554: vblank sets at (241, 1) and clears at (261, 1), whatever `rendering` holds. -/
def vblankActions (s : State) : State :=
  if s.ppu.dot = 1 ∧ s.ppu.scanline = 241 then { s with ppu := s.ppu.setVblank s.cfg.nmiDelay }
  else if s.ppu.dot = 1 ∧ s.ppu.scanline = 261 then { s with ppu := s.ppu.clearVblank s.cfg.nmiDelay }
  else s

/-- `Advance()` on the whole state (R551). -/
def advanceRaster (s : State) : State := { s with ppu := s.ppu.advance }

/-- `PpuStep()` (R554). -/
def ppuStep (s : State) : State := vblankActions (renderingActions (advanceRaster (nmiCountdown s)))

/-- `n` times a picture step and the mapper step after it (60_exceptions.md R500). -/
def runPicture : Nat → State → State
  | 0, s => s
  | n + 1, s => runPicture n (mapperStep (ppuStep s))

end Sys2Proof.Machine
end

