-- ==== Sys2Proof/Syntax.lean ====
section
/-! DEFINITION. The instructions. One constructor of `Instr` per mnemonic of spec/opcode_table.json (30_encoding.md R169, R170);
a mnemonic with several rows takes an operand whose constructors are exactly the addressing modes of its rows, so a documented
instruction that has no row cannot be written. An undocumented instruction names its opcode, because `UNDOC_SIZE` and
`UNDOC_CYCLES` are per opcode (46_undocumented.md R481); WellFormed.lean checks that the opcode is a row of its mnemonic. -/

namespace Sys2Proof

/-- The 13 addressing modes (30_encoding.md R161). -/
inductive Mode
  | implied
  | accumulator
  | immediate
  | zeroPage
  | zeroPageX
  | zeroPageY
  | indexedIndirect
  | indirectIndexed
  | relative
  | absolute
  | absoluteX
  | absoluteY
  | indirect
  deriving DecidableEq, Repr

/-- What an instruction carries of its operand: the mode and the operand bytes that address resolution or the handler reads
(R161). `unreadImmediate` is the immediate mode of an undocumented opcode: the mode only computes an address
(40_execution_addressing.md R217) and the no-op handler reads nothing (R481), so the byte is no part of the instruction (log 10). -/
inductive Operand
  | implied
  | accumulator
  | immediate (imm : Byte)
  | unreadImmediate
  | zeroPage (zp : Byte)
  | zeroPageX (zp : Byte)
  | zeroPageY (zp : Byte)
  | indexedIndirect (zp : Byte)
  | indirectIndexed (zp : Byte)
  | relative (off : Byte)
  | absolute (addr : Word)
  | absoluteX (addr : Word)
  | absoluteY (addr : Word)
  | indirect (ptr : Word)
  deriving DecidableEq, Repr

/-- The addressing mode of an operand (R161). -/
def Operand.mode : Operand → Mode
  | .implied => .implied
  | .accumulator => .accumulator
  | .immediate _ => .immediate
  | .unreadImmediate => .immediate
  | .zeroPage _ => .zeroPage
  | .zeroPageX _ => .zeroPageX
  | .zeroPageY _ => .zeroPageY
  | .indexedIndirect _ => .indexedIndirect
  | .indirectIndexed _ => .indirectIndexed
  | .relative _ => .relative
  | .absolute _ => .absolute
  | .absoluteX _ => .absoluteX
  | .absoluteY _ => .absoluteY
  | .indirect _ => .indirect

/-- The operand of LDA, ADC, SBC, AND, ORA, EOR and CMP: eight modes (41_load_store_transfer.md R251, 42_arith_logic_compare.md R300). -/
inductive ReadOperand
  | immediate (imm : Byte)
  | zeroPage (zp : Byte)
  | zeroPageX (zp : Byte)
  | absolute (addr : Word)
  | absoluteX (addr : Word)
  | absoluteY (addr : Word)
  | indexedIndirect (zp : Byte)
  | indirectIndexed (zp : Byte)
  deriving DecidableEq, Repr

/-- The same operand among all operands. -/
def ReadOperand.toOperand : ReadOperand → Operand
  | .immediate imm => .immediate imm
  | .zeroPage zp => .zeroPage zp
  | .zeroPageX zp => .zeroPageX zp
  | .absolute addr => .absolute addr
  | .absoluteX addr => .absoluteX addr
  | .absoluteY addr => .absoluteY addr
  | .indexedIndirect zp => .indexedIndirect zp
  | .indirectIndexed zp => .indirectIndexed zp

/-- The operand of LDX (R252). -/
inductive LdxOperand
  | immediate (imm : Byte)
  | zeroPage (zp : Byte)
  | zeroPageY (zp : Byte)
  | absolute (addr : Word)
  | absoluteY (addr : Word)
  deriving DecidableEq, Repr

/-- The same operand among all operands. -/
def LdxOperand.toOperand : LdxOperand → Operand
  | .immediate imm => .immediate imm
  | .zeroPage zp => .zeroPage zp
  | .zeroPageY zp => .zeroPageY zp
  | .absolute addr => .absolute addr
  | .absoluteY addr => .absoluteY addr

/-- The operand of LDY (R253). -/
inductive LdyOperand
  | immediate (imm : Byte)
  | zeroPage (zp : Byte)
  | zeroPageX (zp : Byte)
  | absolute (addr : Word)
  | absoluteX (addr : Word)
  deriving DecidableEq, Repr

/-- The same operand among all operands. -/
def LdyOperand.toOperand : LdyOperand → Operand
  | .immediate imm => .immediate imm
  | .zeroPage zp => .zeroPage zp
  | .zeroPageX zp => .zeroPageX zp
  | .absolute addr => .absolute addr
  | .absoluteX addr => .absoluteX addr

/-- The operand of STA (R254). -/
inductive StaOperand
  | zeroPage (zp : Byte)
  | zeroPageX (zp : Byte)
  | absolute (addr : Word)
  | absoluteX (addr : Word)
  | absoluteY (addr : Word)
  | indexedIndirect (zp : Byte)
  | indirectIndexed (zp : Byte)
  deriving DecidableEq, Repr

/-- The same operand among all operands. -/
def StaOperand.toOperand : StaOperand → Operand
  | .zeroPage zp => .zeroPage zp
  | .zeroPageX zp => .zeroPageX zp
  | .absolute addr => .absolute addr
  | .absoluteX addr => .absoluteX addr
  | .absoluteY addr => .absoluteY addr
  | .indexedIndirect zp => .indexedIndirect zp
  | .indirectIndexed zp => .indirectIndexed zp

/-- The operand of STX (R255). -/
inductive StxOperand
  | zeroPage (zp : Byte)
  | zeroPageY (zp : Byte)
  | absolute (addr : Word)
  deriving DecidableEq, Repr

/-- The same operand among all operands. -/
def StxOperand.toOperand : StxOperand → Operand
  | .zeroPage zp => .zeroPage zp
  | .zeroPageY zp => .zeroPageY zp
  | .absolute addr => .absolute addr

/-- The operand of STY (R256). -/
inductive StyOperand
  | zeroPage (zp : Byte)
  | zeroPageX (zp : Byte)
  | absolute (addr : Word)
  deriving DecidableEq, Repr

/-- The same operand among all operands. -/
def StyOperand.toOperand : StyOperand → Operand
  | .zeroPage zp => .zeroPage zp
  | .zeroPageX zp => .zeroPageX zp
  | .absolute addr => .absolute addr

/-- The operand of BIT (R306). -/
inductive BitOperand
  | zeroPage (zp : Byte)
  | absolute (addr : Word)
  deriving DecidableEq, Repr

/-- The same operand among all operands. -/
def BitOperand.toOperand : BitOperand → Operand
  | .zeroPage zp => .zeroPage zp
  | .absolute addr => .absolute addr

/-- The operand of CPX and CPY (R308, R309). -/
inductive IndexOperand
  | immediate (imm : Byte)
  | zeroPage (zp : Byte)
  | absolute (addr : Word)
  deriving DecidableEq, Repr

/-- The same operand among all operands. -/
def IndexOperand.toOperand : IndexOperand → Operand
  | .immediate imm => .immediate imm
  | .zeroPage zp => .zeroPage zp
  | .absolute addr => .absolute addr

/-- The operand of INC and DEC (43_incdec_shift.md R351, R352). -/
inductive ModifyOperand
  | zeroPage (zp : Byte)
  | zeroPageX (zp : Byte)
  | absolute (addr : Word)
  | absoluteX (addr : Word)
  deriving DecidableEq, Repr

/-- The same operand among all operands. -/
def ModifyOperand.toOperand : ModifyOperand → Operand
  | .zeroPage zp => .zeroPage zp
  | .zeroPageX zp => .zeroPageX zp
  | .absolute addr => .absolute addr
  | .absoluteX addr => .absoluteX addr

/-- The operand of ASL, LSR, ROL and ROR (R357 to R360). -/
inductive ShiftOperand
  | accumulator
  | zeroPage (zp : Byte)
  | zeroPageX (zp : Byte)
  | absolute (addr : Word)
  | absoluteX (addr : Word)
  deriving DecidableEq, Repr

/-- The same operand among all operands. -/
def ShiftOperand.toOperand : ShiftOperand → Operand
  | .accumulator => .accumulator
  | .zeroPage zp => .zeroPage zp
  | .zeroPageX zp => .zeroPageX zp
  | .absolute addr => .absolute addr
  | .absoluteX addr => .absoluteX addr

/-- The operand of JMP (44_control_flow.md R399). -/
inductive JumpOperand
  | absolute (addr : Word)
  | indirect (ptr : Word)
  deriving DecidableEq, Repr

/-- The same operand among all operands. -/
def JumpOperand.toOperand : JumpOperand → Operand
  | .absolute addr => .absolute addr
  | .indirect ptr => .indirect ptr

/-- The instructions: 56 documented mnemonics (R169), then the 21 labels of the undocumented opcodes (46_undocumented.md R482). -/
inductive Instr
  | lda (o : ReadOperand)
  | ldx (o : LdxOperand)
  | ldy (o : LdyOperand)
  | sta (o : StaOperand)
  | stx (o : StxOperand)
  | sty (o : StyOperand)
  | tax
  | tay
  | txa
  | tya
  | tsx
  | txs
  | adc (o : ReadOperand)
  | sbc (o : ReadOperand)
  | and (o : ReadOperand)
  | ora (o : ReadOperand)
  | eor (o : ReadOperand)
  | bit (o : BitOperand)
  | cmp (o : ReadOperand)
  | cpx (o : IndexOperand)
  | cpy (o : IndexOperand)
  | inc (o : ModifyOperand)
  | dec (o : ModifyOperand)
  | inx
  | iny
  | dex
  | dey
  | asl (o : ShiftOperand)
  | lsr (o : ShiftOperand)
  | rol (o : ShiftOperand)
  | ror (o : ShiftOperand)
  | bcc (off : Byte)
  | bcs (off : Byte)
  | beq (off : Byte)
  | bmi (off : Byte)
  | bne (off : Byte)
  | bpl (off : Byte)
  | bvc (off : Byte)
  | bvs (off : Byte)
  | jmp (o : JumpOperand)
  | jsr (addr : Word)
  | rts
  | pha
  | php
  | pla
  | plp
  | clc
  | cld
  | cli
  | clv
  | sec
  | sed
  | sei
  | brk
  | rti
  | nop
  | kil (op : Byte) (o : Operand)
  | nopUndoc (op : Byte) (o : Operand)
  | slo (op : Byte) (o : Operand)
  | rla (op : Byte) (o : Operand)
  | sre (op : Byte) (o : Operand)
  | rra (op : Byte) (o : Operand)
  | dcp (op : Byte) (o : Operand)
  | isc (op : Byte) (o : Operand)
  | sax (op : Byte) (o : Operand)
  | lax (op : Byte) (o : Operand)
  | anc (op : Byte) (o : Operand)
  | alr (op : Byte) (o : Operand)
  | arr (op : Byte) (o : Operand)
  | xaa (op : Byte) (o : Operand)
  | axs (op : Byte) (o : Operand)
  | sbcUndoc (op : Byte) (o : Operand)
  | ahx (op : Byte) (o : Operand)
  | shy (op : Byte) (o : Operand)
  | shx (op : Byte) (o : Operand)
  | tas (op : Byte) (o : Operand)
  | las (op : Byte) (o : Operand)
  deriving DecidableEq, Repr

/-- The operand an instruction carries. -/
def Instr.operand : Instr → Operand
  | .lda o => o.toOperand
  | .ldx o => o.toOperand
  | .ldy o => o.toOperand
  | .sta o => o.toOperand
  | .stx o => o.toOperand
  | .sty o => o.toOperand
  | .tax => .implied
  | .tay => .implied
  | .txa => .implied
  | .tya => .implied
  | .tsx => .implied
  | .txs => .implied
  | .adc o => o.toOperand
  | .sbc o => o.toOperand
  | .and o => o.toOperand
  | .ora o => o.toOperand
  | .eor o => o.toOperand
  | .bit o => o.toOperand
  | .cmp o => o.toOperand
  | .cpx o => o.toOperand
  | .cpy o => o.toOperand
  | .inc o => o.toOperand
  | .dec o => o.toOperand
  | .inx => .implied
  | .iny => .implied
  | .dex => .implied
  | .dey => .implied
  | .asl o => o.toOperand
  | .lsr o => o.toOperand
  | .rol o => o.toOperand
  | .ror o => o.toOperand
  | .bcc off => .relative off
  | .bcs off => .relative off
  | .beq off => .relative off
  | .bmi off => .relative off
  | .bne off => .relative off
  | .bpl off => .relative off
  | .bvc off => .relative off
  | .bvs off => .relative off
  | .jmp o => o.toOperand
  | .jsr addr => .absolute addr
  | .rts => .implied
  | .pha => .implied
  | .php => .implied
  | .pla => .implied
  | .plp => .implied
  | .clc => .implied
  | .cld => .implied
  | .cli => .implied
  | .clv => .implied
  | .sec => .implied
  | .sed => .implied
  | .sei => .implied
  | .brk => .implied
  | .rti => .implied
  | .nop => .implied
  | .kil _ o => o
  | .nopUndoc _ o => o
  | .slo _ o => o
  | .rla _ o => o
  | .sre _ o => o
  | .rra _ o => o
  | .dcp _ o => o
  | .isc _ o => o
  | .sax _ o => o
  | .lax _ o => o
  | .anc _ o => o
  | .alr _ o => o
  | .arr _ o => o
  | .xaa _ o => o
  | .axs _ o => o
  | .sbcUndoc _ o => o
  | .ahx _ o => o
  | .shy _ o => o
  | .shx _ o => o
  | .tas _ o => o
  | .las _ o => o

/-- The mnemonic as spec/opcode_table.json spells it. -/
def Instr.mnemonic : Instr → String
  | .lda _ => "LDA"
  | .ldx _ => "LDX"
  | .ldy _ => "LDY"
  | .sta _ => "STA"
  | .stx _ => "STX"
  | .sty _ => "STY"
  | .tax => "TAX"
  | .tay => "TAY"
  | .txa => "TXA"
  | .tya => "TYA"
  | .tsx => "TSX"
  | .txs => "TXS"
  | .adc _ => "ADC"
  | .sbc _ => "SBC"
  | .and _ => "AND"
  | .ora _ => "ORA"
  | .eor _ => "EOR"
  | .bit _ => "BIT"
  | .cmp _ => "CMP"
  | .cpx _ => "CPX"
  | .cpy _ => "CPY"
  | .inc _ => "INC"
  | .dec _ => "DEC"
  | .inx => "INX"
  | .iny => "INY"
  | .dex => "DEX"
  | .dey => "DEY"
  | .asl _ => "ASL"
  | .lsr _ => "LSR"
  | .rol _ => "ROL"
  | .ror _ => "ROR"
  | .bcc _ => "BCC"
  | .bcs _ => "BCS"
  | .beq _ => "BEQ"
  | .bmi _ => "BMI"
  | .bne _ => "BNE"
  | .bpl _ => "BPL"
  | .bvc _ => "BVC"
  | .bvs _ => "BVS"
  | .jmp _ => "JMP"
  | .jsr _ => "JSR"
  | .rts => "RTS"
  | .pha => "PHA"
  | .php => "PHP"
  | .pla => "PLA"
  | .plp => "PLP"
  | .clc => "CLC"
  | .cld => "CLD"
  | .cli => "CLI"
  | .clv => "CLV"
  | .sec => "SEC"
  | .sed => "SED"
  | .sei => "SEI"
  | .brk => "BRK"
  | .rti => "RTI"
  | .nop => "NOP"
  | .kil _ _ => "KIL*"
  | .nopUndoc _ _ => "NOP*"
  | .slo _ _ => "SLO*"
  | .rla _ _ => "RLA*"
  | .sre _ _ => "SRE*"
  | .rra _ _ => "RRA*"
  | .dcp _ _ => "DCP*"
  | .isc _ _ => "ISC*"
  | .sax _ _ => "SAX*"
  | .lax _ _ => "LAX*"
  | .anc _ _ => "ANC*"
  | .alr _ _ => "ALR*"
  | .arr _ _ => "ARR*"
  | .xaa _ _ => "XAA*"
  | .axs _ _ => "AXS*"
  | .sbcUndoc _ _ => "SBC*"
  | .ahx _ _ => "AHX*"
  | .shy _ _ => "SHY*"
  | .shx _ _ => "SHX*"
  | .tas _ _ => "TAS*"
  | .las _ _ => "LAS*"

end Sys2Proof
end

