-- ==== Sys2Proof/WellFormed.lean ====
section
/-! DEFINITION. Well-formed instructions. A documented instruction always is: its operand type holds exactly the modes of its
rows. An undocumented one is when its opcode is one of its label's values in the table of 46_undocumented.md R482 and its operand
has that value's mode. -/

namespace Sys2Proof

/-- One row of R482's table for a label: an addressing mode and the opcode values that have it. -/
abbrev UndocForms := List (Mode × List Byte)

/-- The seven-mode labels of R482, in SLO's mode order. -/
def sevenForms (zpX zp abs zpY zpIdx absY absX : Byte) : UndocForms :=
  [(.indexedIndirect, [zpX]), (.zeroPage, [zp]), (.absolute, [abs]), (.indirectIndexed, [zpY]),
   (.zeroPageX, [zpIdx]), (.absoluteY, [absY]), (.absoluteX, [absX])]

/-- The opcode an undocumented instruction names and the forms of its label (R482); none for a documented instruction. -/
def Instr.undoc : Instr → Option (Byte × UndocForms)
  | .lda _ => none
  | .ldx _ => none
  | .ldy _ => none
  | .sta _ => none
  | .stx _ => none
  | .sty _ => none
  | .tax => none
  | .tay => none
  | .txa => none
  | .tya => none
  | .tsx => none
  | .txs => none
  | .adc _ => none
  | .sbc _ => none
  | .and _ => none
  | .ora _ => none
  | .eor _ => none
  | .bit _ => none
  | .cmp _ => none
  | .cpx _ => none
  | .cpy _ => none
  | .inc _ => none
  | .dec _ => none
  | .inx => none
  | .iny => none
  | .dex => none
  | .dey => none
  | .asl _ => none
  | .lsr _ => none
  | .rol _ => none
  | .ror _ => none
  | .bcc _ => none
  | .bcs _ => none
  | .beq _ => none
  | .bmi _ => none
  | .bne _ => none
  | .bpl _ => none
  | .bvc _ => none
  | .bvs _ => none
  | .jmp _ => none
  | .jsr _ => none
  | .rts => none
  | .pha => none
  | .php => none
  | .pla => none
  | .plp => none
  | .clc => none
  | .cld => none
  | .cli => none
  | .clv => none
  | .sec => none
  | .sed => none
  | .sei => none
  | .brk => none
  | .rti => none
  | .nop => none
  | .kil op _ => some (op,
    [(.implied, [0x02, 0x12, 0x22, 0x32, 0x42, 0x52, 0x62, 0x72, 0x92, 0xB2, 0xD2, 0xF2])])
  | .nopUndoc op _ => some (op,
    [(.implied, [0x1A, 0x3A, 0x5A, 0x7A, 0xDA, 0xFA]),
     (.immediate, [0x80, 0x82, 0x89, 0xC2, 0xE2]),
     (.zeroPage, [0x04, 0x44, 0x64]),
     (.zeroPageX, [0x14, 0x34, 0x54, 0x74, 0xD4, 0xF4]),
     (.absolute, [0x0C]),
     (.absoluteX, [0x1C, 0x3C, 0x5C, 0x7C, 0xDC, 0xFC])])
  | .slo op _ => some (op, sevenForms 0x03 0x07 0x0F 0x13 0x17 0x1B 0x1F)
  | .rla op _ => some (op, sevenForms 0x23 0x27 0x2F 0x33 0x37 0x3B 0x3F)
  | .sre op _ => some (op, sevenForms 0x43 0x47 0x4F 0x53 0x57 0x5B 0x5F)
  | .rra op _ => some (op, sevenForms 0x63 0x67 0x6F 0x73 0x77 0x7B 0x7F)
  | .dcp op _ => some (op, sevenForms 0xC3 0xC7 0xCF 0xD3 0xD7 0xDB 0xDF)
  | .isc op _ => some (op, sevenForms 0xE3 0xE7 0xEF 0xF3 0xF7 0xFB 0xFF)
  | .sax op _ => some (op,
    [(.indexedIndirect, [0x83]),
     (.zeroPage, [0x87]),
     (.absolute, [0x8F]),
     (.zeroPageY, [0x97])])
  | .lax op _ => some (op,
    [(.indexedIndirect, [0xA3]),
     (.zeroPage, [0xA7]),
     (.immediate, [0xAB]),
     (.absolute, [0xAF]),
     (.indirectIndexed, [0xB3]),
     (.zeroPageY, [0xB7]),
     (.absoluteY, [0xBF])])
  | .anc op _ => some (op,
    [(.immediate, [0x0B, 0x2B])])
  | .alr op _ => some (op,
    [(.immediate, [0x4B])])
  | .arr op _ => some (op,
    [(.immediate, [0x6B])])
  | .xaa op _ => some (op,
    [(.immediate, [0x8B])])
  | .axs op _ => some (op,
    [(.immediate, [0xCB])])
  | .sbcUndoc op _ => some (op,
    [(.immediate, [0xEB])])
  | .ahx op _ => some (op,
    [(.indirectIndexed, [0x93]),
     (.absoluteY, [0x9F])])
  | .shy op _ => some (op,
    [(.absoluteX, [0x9C])])
  | .shx op _ => some (op,
    [(.absoluteY, [0x9E])])
  | .tas op _ => some (op,
    [(.absoluteY, [0x9B])])
  | .las op _ => some (op,
    [(.absoluteY, [0xBB])])

/-- Check 1 of an undocumented instruction: the opcode value is one of the label's (R482). -/
def opcodeListed (forms : UndocForms) (op : Byte) : Bool := forms.any fun r => r.2.contains op

/-- Check 2: the operand's mode is the mode R482 gives that opcode value. -/
def modeListed (forms : UndocForms) (op : Byte) (m : Mode) : Bool := forms.any fun r => r.2.contains op && r.1 == m

/-- Check 3: an undocumented immediate operand is carried without its byte (log 10), so each instruction is written one way. -/
def operandCarried : Operand → Bool
  | .immediate _ => false
  | _ => true

/-- An undocumented instruction of the given forms is well formed. -/
def undocWellFormed (forms : UndocForms) (op : Byte) (o : Operand) : Bool :=
  opcodeListed forms op && modeListed forms op o.mode && operandCarried o

/-- The instruction is one of the opcode table's. -/
def Instr.wf (i : Instr) : Bool :=
  match i.undoc with
  | some (op, forms) => undocWellFormed forms op i.operand
  | none => true

end Sys2Proof
end

