-- ==== Sys2Proof/Decode.lean ====
section
/-! DEFINITION. The opcode map as data (30_encoding.md R167, R168: 256 rows indexed by the opcode value), the decoder that reads
it, and the encoder, whose opcodes are written from the Encodings lines of the instruction rules (41 to 46) and not from the map;
Laws/ proves that the two agree. -/

namespace Sys2Proof

/-- The 16-bit value of two bytes, the low one first in memory (20_memory.md R101). -/
def wordOf (lo hi : Byte) : Word := hi ++ lo

/-- The low byte of a 16-bit value. -/
def Word.lo (w : Word) : Byte := w.extractLsb' 0 8

/-- The high byte of a 16-bit value. -/
def Word.hi (w : Word) : Byte := w.extractLsb' 8 8

/-- One row of the opcode map (R167). `build` makes the row's instruction from the operand bytes that its mode reads, low byte
first. `length` and `baseCycles` of an undocumented row are 0 and unused: they are `UNDOC_SIZE` and `UNDOC_CYCLES` (R170). -/
structure OpRow where
  mnemonic : String
  mode : Mode
  length : Nat
  baseCycles : Nat
  pagePenalty : Nat
  documented : Bool
  build : Byte → Byte → Instr

/-- A documented row (R168). -/
def docRow (mnemonic : String) (mode : Mode) (length baseCycles pagePenalty : Nat) (build : Byte → Byte → Instr) : OpRow :=
  ⟨mnemonic, mode, length, baseCycles, pagePenalty, true, build⟩

/-- An undocumented row (R168's `*`, R170): page penalty 0 (46_undocumented.md R481). -/
def undocRow (mnemonic : String) (mode : Mode) (build : Byte → Byte → Instr) : OpRow :=
  ⟨mnemonic, mode, 0, 0, 0, false, build⟩

/-- Row 0 of R168's map: opcodes 0x00 to 0x0F. -/
def opRows0 : List OpRow :=
  [ docRow "BRK" .implied 2 7 0 (fun _ _ => .brk)
  , docRow "ORA" .indexedIndirect 2 6 0 (fun lo _ => .ora (.indexedIndirect lo))
  , undocRow "KIL*" .implied (fun _ _ => .kil 0x02 .implied)
  , undocRow "SLO*" .indexedIndirect (fun lo _ => .slo 0x03 (.indexedIndirect lo))
  , undocRow "NOP*" .zeroPage (fun lo _ => .nopUndoc 0x04 (.zeroPage lo))
  , docRow "ORA" .zeroPage 2 3 0 (fun lo _ => .ora (.zeroPage lo))
  , docRow "ASL" .zeroPage 2 5 0 (fun lo _ => .asl (.zeroPage lo))
  , undocRow "SLO*" .zeroPage (fun lo _ => .slo 0x07 (.zeroPage lo))
  , docRow "PHP" .implied 1 3 0 (fun _ _ => .php)
  , docRow "ORA" .immediate 2 2 0 (fun lo _ => .ora (.immediate lo))
  , docRow "ASL" .accumulator 1 2 0 (fun _ _ => .asl .accumulator)
  , undocRow "ANC*" .immediate (fun _ _ => .anc 0x0B .unreadImmediate)
  , undocRow "NOP*" .absolute (fun lo hi => .nopUndoc 0x0C (.absolute (wordOf lo hi)))
  , docRow "ORA" .absolute 3 4 0 (fun lo hi => .ora (.absolute (wordOf lo hi)))
  , docRow "ASL" .absolute 3 6 0 (fun lo hi => .asl (.absolute (wordOf lo hi)))
  , undocRow "SLO*" .absolute (fun lo hi => .slo 0x0F (.absolute (wordOf lo hi)))
  ]

/-- Row 1 of R168's map: opcodes 0x10 to 0x1F. -/
def opRows1 : List OpRow :=
  [ docRow "BPL" .relative 2 2 0 (fun lo _ => .bpl lo)
  , docRow "ORA" .indirectIndexed 2 5 1 (fun lo _ => .ora (.indirectIndexed lo))
  , undocRow "KIL*" .implied (fun _ _ => .kil 0x12 .implied)
  , undocRow "SLO*" .indirectIndexed (fun lo _ => .slo 0x13 (.indirectIndexed lo))
  , undocRow "NOP*" .zeroPageX (fun lo _ => .nopUndoc 0x14 (.zeroPageX lo))
  , docRow "ORA" .zeroPageX 2 4 0 (fun lo _ => .ora (.zeroPageX lo))
  , docRow "ASL" .zeroPageX 2 6 0 (fun lo _ => .asl (.zeroPageX lo))
  , undocRow "SLO*" .zeroPageX (fun lo _ => .slo 0x17 (.zeroPageX lo))
  , docRow "CLC" .implied 1 2 0 (fun _ _ => .clc)
  , docRow "ORA" .absoluteY 3 4 1 (fun lo hi => .ora (.absoluteY (wordOf lo hi)))
  , undocRow "NOP*" .implied (fun _ _ => .nopUndoc 0x1A .implied)
  , undocRow "SLO*" .absoluteY (fun lo hi => .slo 0x1B (.absoluteY (wordOf lo hi)))
  , undocRow "NOP*" .absoluteX (fun lo hi => .nopUndoc 0x1C (.absoluteX (wordOf lo hi)))
  , docRow "ORA" .absoluteX 3 4 1 (fun lo hi => .ora (.absoluteX (wordOf lo hi)))
  , docRow "ASL" .absoluteX 3 7 0 (fun lo hi => .asl (.absoluteX (wordOf lo hi)))
  , undocRow "SLO*" .absoluteX (fun lo hi => .slo 0x1F (.absoluteX (wordOf lo hi)))
  ]

/-- Row 2 of R168's map: opcodes 0x20 to 0x2F. -/
def opRows2 : List OpRow :=
  [ docRow "JSR" .absolute 3 6 0 (fun lo hi => .jsr (wordOf lo hi))
  , docRow "AND" .indexedIndirect 2 6 0 (fun lo _ => .and (.indexedIndirect lo))
  , undocRow "KIL*" .implied (fun _ _ => .kil 0x22 .implied)
  , undocRow "RLA*" .indexedIndirect (fun lo _ => .rla 0x23 (.indexedIndirect lo))
  , docRow "BIT" .zeroPage 2 3 0 (fun lo _ => .bit (.zeroPage lo))
  , docRow "AND" .zeroPage 2 3 0 (fun lo _ => .and (.zeroPage lo))
  , docRow "ROL" .zeroPage 2 5 0 (fun lo _ => .rol (.zeroPage lo))
  , undocRow "RLA*" .zeroPage (fun lo _ => .rla 0x27 (.zeroPage lo))
  , docRow "PLP" .implied 1 4 0 (fun _ _ => .plp)
  , docRow "AND" .immediate 2 2 0 (fun lo _ => .and (.immediate lo))
  , docRow "ROL" .accumulator 1 2 0 (fun _ _ => .rol .accumulator)
  , undocRow "ANC*" .immediate (fun _ _ => .anc 0x2B .unreadImmediate)
  , docRow "BIT" .absolute 3 4 0 (fun lo hi => .bit (.absolute (wordOf lo hi)))
  , docRow "AND" .absolute 3 4 0 (fun lo hi => .and (.absolute (wordOf lo hi)))
  , docRow "ROL" .absolute 3 6 0 (fun lo hi => .rol (.absolute (wordOf lo hi)))
  , undocRow "RLA*" .absolute (fun lo hi => .rla 0x2F (.absolute (wordOf lo hi)))
  ]

/-- Row 3 of R168's map: opcodes 0x30 to 0x3F. -/
def opRows3 : List OpRow :=
  [ docRow "BMI" .relative 2 2 0 (fun lo _ => .bmi lo)
  , docRow "AND" .indirectIndexed 2 5 1 (fun lo _ => .and (.indirectIndexed lo))
  , undocRow "KIL*" .implied (fun _ _ => .kil 0x32 .implied)
  , undocRow "RLA*" .indirectIndexed (fun lo _ => .rla 0x33 (.indirectIndexed lo))
  , undocRow "NOP*" .zeroPageX (fun lo _ => .nopUndoc 0x34 (.zeroPageX lo))
  , docRow "AND" .zeroPageX 2 4 0 (fun lo _ => .and (.zeroPageX lo))
  , docRow "ROL" .zeroPageX 2 6 0 (fun lo _ => .rol (.zeroPageX lo))
  , undocRow "RLA*" .zeroPageX (fun lo _ => .rla 0x37 (.zeroPageX lo))
  , docRow "SEC" .implied 1 2 0 (fun _ _ => .sec)
  , docRow "AND" .absoluteY 3 4 1 (fun lo hi => .and (.absoluteY (wordOf lo hi)))
  , undocRow "NOP*" .implied (fun _ _ => .nopUndoc 0x3A .implied)
  , undocRow "RLA*" .absoluteY (fun lo hi => .rla 0x3B (.absoluteY (wordOf lo hi)))
  , undocRow "NOP*" .absoluteX (fun lo hi => .nopUndoc 0x3C (.absoluteX (wordOf lo hi)))
  , docRow "AND" .absoluteX 3 4 1 (fun lo hi => .and (.absoluteX (wordOf lo hi)))
  , docRow "ROL" .absoluteX 3 7 0 (fun lo hi => .rol (.absoluteX (wordOf lo hi)))
  , undocRow "RLA*" .absoluteX (fun lo hi => .rla 0x3F (.absoluteX (wordOf lo hi)))
  ]

/-- Row 4 of R168's map: opcodes 0x40 to 0x4F. -/
def opRows4 : List OpRow :=
  [ docRow "RTI" .implied 1 6 0 (fun _ _ => .rti)
  , docRow "EOR" .indexedIndirect 2 6 0 (fun lo _ => .eor (.indexedIndirect lo))
  , undocRow "KIL*" .implied (fun _ _ => .kil 0x42 .implied)
  , undocRow "SRE*" .indexedIndirect (fun lo _ => .sre 0x43 (.indexedIndirect lo))
  , undocRow "NOP*" .zeroPage (fun lo _ => .nopUndoc 0x44 (.zeroPage lo))
  , docRow "EOR" .zeroPage 2 3 0 (fun lo _ => .eor (.zeroPage lo))
  , docRow "LSR" .zeroPage 2 5 0 (fun lo _ => .lsr (.zeroPage lo))
  , undocRow "SRE*" .zeroPage (fun lo _ => .sre 0x47 (.zeroPage lo))
  , docRow "PHA" .implied 1 3 0 (fun _ _ => .pha)
  , docRow "EOR" .immediate 2 2 0 (fun lo _ => .eor (.immediate lo))
  , docRow "LSR" .accumulator 1 2 0 (fun _ _ => .lsr .accumulator)
  , undocRow "ALR*" .immediate (fun _ _ => .alr 0x4B .unreadImmediate)
  , docRow "JMP" .absolute 3 3 0 (fun lo hi => .jmp (.absolute (wordOf lo hi)))
  , docRow "EOR" .absolute 3 4 0 (fun lo hi => .eor (.absolute (wordOf lo hi)))
  , docRow "LSR" .absolute 3 6 0 (fun lo hi => .lsr (.absolute (wordOf lo hi)))
  , undocRow "SRE*" .absolute (fun lo hi => .sre 0x4F (.absolute (wordOf lo hi)))
  ]

/-- Row 5 of R168's map: opcodes 0x50 to 0x5F. -/
def opRows5 : List OpRow :=
  [ docRow "BVC" .relative 2 2 0 (fun lo _ => .bvc lo)
  , docRow "EOR" .indirectIndexed 2 5 1 (fun lo _ => .eor (.indirectIndexed lo))
  , undocRow "KIL*" .implied (fun _ _ => .kil 0x52 .implied)
  , undocRow "SRE*" .indirectIndexed (fun lo _ => .sre 0x53 (.indirectIndexed lo))
  , undocRow "NOP*" .zeroPageX (fun lo _ => .nopUndoc 0x54 (.zeroPageX lo))
  , docRow "EOR" .zeroPageX 2 4 0 (fun lo _ => .eor (.zeroPageX lo))
  , docRow "LSR" .zeroPageX 2 6 0 (fun lo _ => .lsr (.zeroPageX lo))
  , undocRow "SRE*" .zeroPageX (fun lo _ => .sre 0x57 (.zeroPageX lo))
  , docRow "CLI" .implied 1 2 0 (fun _ _ => .cli)
  , docRow "EOR" .absoluteY 3 4 1 (fun lo hi => .eor (.absoluteY (wordOf lo hi)))
  , undocRow "NOP*" .implied (fun _ _ => .nopUndoc 0x5A .implied)
  , undocRow "SRE*" .absoluteY (fun lo hi => .sre 0x5B (.absoluteY (wordOf lo hi)))
  , undocRow "NOP*" .absoluteX (fun lo hi => .nopUndoc 0x5C (.absoluteX (wordOf lo hi)))
  , docRow "EOR" .absoluteX 3 4 1 (fun lo hi => .eor (.absoluteX (wordOf lo hi)))
  , docRow "LSR" .absoluteX 3 7 0 (fun lo hi => .lsr (.absoluteX (wordOf lo hi)))
  , undocRow "SRE*" .absoluteX (fun lo hi => .sre 0x5F (.absoluteX (wordOf lo hi)))
  ]

/-- Row 6 of R168's map: opcodes 0x60 to 0x6F. -/
def opRows6 : List OpRow :=
  [ docRow "RTS" .implied 1 6 0 (fun _ _ => .rts)
  , docRow "ADC" .indexedIndirect 2 6 0 (fun lo _ => .adc (.indexedIndirect lo))
  , undocRow "KIL*" .implied (fun _ _ => .kil 0x62 .implied)
  , undocRow "RRA*" .indexedIndirect (fun lo _ => .rra 0x63 (.indexedIndirect lo))
  , undocRow "NOP*" .zeroPage (fun lo _ => .nopUndoc 0x64 (.zeroPage lo))
  , docRow "ADC" .zeroPage 2 3 0 (fun lo _ => .adc (.zeroPage lo))
  , docRow "ROR" .zeroPage 2 5 0 (fun lo _ => .ror (.zeroPage lo))
  , undocRow "RRA*" .zeroPage (fun lo _ => .rra 0x67 (.zeroPage lo))
  , docRow "PLA" .implied 1 4 0 (fun _ _ => .pla)
  , docRow "ADC" .immediate 2 2 0 (fun lo _ => .adc (.immediate lo))
  , docRow "ROR" .accumulator 1 2 0 (fun _ _ => .ror .accumulator)
  , undocRow "ARR*" .immediate (fun _ _ => .arr 0x6B .unreadImmediate)
  , docRow "JMP" .indirect 3 5 0 (fun lo hi => .jmp (.indirect (wordOf lo hi)))
  , docRow "ADC" .absolute 3 4 0 (fun lo hi => .adc (.absolute (wordOf lo hi)))
  , docRow "ROR" .absolute 3 6 0 (fun lo hi => .ror (.absolute (wordOf lo hi)))
  , undocRow "RRA*" .absolute (fun lo hi => .rra 0x6F (.absolute (wordOf lo hi)))
  ]

/-- Row 7 of R168's map: opcodes 0x70 to 0x7F. -/
def opRows7 : List OpRow :=
  [ docRow "BVS" .relative 2 2 0 (fun lo _ => .bvs lo)
  , docRow "ADC" .indirectIndexed 2 5 1 (fun lo _ => .adc (.indirectIndexed lo))
  , undocRow "KIL*" .implied (fun _ _ => .kil 0x72 .implied)
  , undocRow "RRA*" .indirectIndexed (fun lo _ => .rra 0x73 (.indirectIndexed lo))
  , undocRow "NOP*" .zeroPageX (fun lo _ => .nopUndoc 0x74 (.zeroPageX lo))
  , docRow "ADC" .zeroPageX 2 4 0 (fun lo _ => .adc (.zeroPageX lo))
  , docRow "ROR" .zeroPageX 2 6 0 (fun lo _ => .ror (.zeroPageX lo))
  , undocRow "RRA*" .zeroPageX (fun lo _ => .rra 0x77 (.zeroPageX lo))
  , docRow "SEI" .implied 1 2 0 (fun _ _ => .sei)
  , docRow "ADC" .absoluteY 3 4 1 (fun lo hi => .adc (.absoluteY (wordOf lo hi)))
  , undocRow "NOP*" .implied (fun _ _ => .nopUndoc 0x7A .implied)
  , undocRow "RRA*" .absoluteY (fun lo hi => .rra 0x7B (.absoluteY (wordOf lo hi)))
  , undocRow "NOP*" .absoluteX (fun lo hi => .nopUndoc 0x7C (.absoluteX (wordOf lo hi)))
  , docRow "ADC" .absoluteX 3 4 1 (fun lo hi => .adc (.absoluteX (wordOf lo hi)))
  , docRow "ROR" .absoluteX 3 7 0 (fun lo hi => .ror (.absoluteX (wordOf lo hi)))
  , undocRow "RRA*" .absoluteX (fun lo hi => .rra 0x7F (.absoluteX (wordOf lo hi)))
  ]

/-- Row 8 of R168's map: opcodes 0x80 to 0x8F. -/
def opRows8 : List OpRow :=
  [ undocRow "NOP*" .immediate (fun _ _ => .nopUndoc 0x80 .unreadImmediate)
  , docRow "STA" .indexedIndirect 2 6 0 (fun lo _ => .sta (.indexedIndirect lo))
  , undocRow "NOP*" .immediate (fun _ _ => .nopUndoc 0x82 .unreadImmediate)
  , undocRow "SAX*" .indexedIndirect (fun lo _ => .sax 0x83 (.indexedIndirect lo))
  , docRow "STY" .zeroPage 2 3 0 (fun lo _ => .sty (.zeroPage lo))
  , docRow "STA" .zeroPage 2 3 0 (fun lo _ => .sta (.zeroPage lo))
  , docRow "STX" .zeroPage 2 3 0 (fun lo _ => .stx (.zeroPage lo))
  , undocRow "SAX*" .zeroPage (fun lo _ => .sax 0x87 (.zeroPage lo))
  , docRow "DEY" .implied 1 2 0 (fun _ _ => .dey)
  , undocRow "NOP*" .immediate (fun _ _ => .nopUndoc 0x89 .unreadImmediate)
  , docRow "TXA" .implied 1 2 0 (fun _ _ => .txa)
  , undocRow "XAA*" .immediate (fun _ _ => .xaa 0x8B .unreadImmediate)
  , docRow "STY" .absolute 3 4 0 (fun lo hi => .sty (.absolute (wordOf lo hi)))
  , docRow "STA" .absolute 3 4 0 (fun lo hi => .sta (.absolute (wordOf lo hi)))
  , docRow "STX" .absolute 3 4 0 (fun lo hi => .stx (.absolute (wordOf lo hi)))
  , undocRow "SAX*" .absolute (fun lo hi => .sax 0x8F (.absolute (wordOf lo hi)))
  ]

/-- Row 9 of R168's map: opcodes 0x90 to 0x9F. -/
def opRows9 : List OpRow :=
  [ docRow "BCC" .relative 2 2 0 (fun lo _ => .bcc lo)
  , docRow "STA" .indirectIndexed 2 6 0 (fun lo _ => .sta (.indirectIndexed lo))
  , undocRow "KIL*" .implied (fun _ _ => .kil 0x92 .implied)
  , undocRow "AHX*" .indirectIndexed (fun lo _ => .ahx 0x93 (.indirectIndexed lo))
  , docRow "STY" .zeroPageX 2 4 0 (fun lo _ => .sty (.zeroPageX lo))
  , docRow "STA" .zeroPageX 2 4 0 (fun lo _ => .sta (.zeroPageX lo))
  , docRow "STX" .zeroPageY 2 4 0 (fun lo _ => .stx (.zeroPageY lo))
  , undocRow "SAX*" .zeroPageY (fun lo _ => .sax 0x97 (.zeroPageY lo))
  , docRow "TYA" .implied 1 2 0 (fun _ _ => .tya)
  , docRow "STA" .absoluteY 3 5 0 (fun lo hi => .sta (.absoluteY (wordOf lo hi)))
  , docRow "TXS" .implied 1 2 0 (fun _ _ => .txs)
  , undocRow "TAS*" .absoluteY (fun lo hi => .tas 0x9B (.absoluteY (wordOf lo hi)))
  , undocRow "SHY*" .absoluteX (fun lo hi => .shy 0x9C (.absoluteX (wordOf lo hi)))
  , docRow "STA" .absoluteX 3 5 0 (fun lo hi => .sta (.absoluteX (wordOf lo hi)))
  , undocRow "SHX*" .absoluteY (fun lo hi => .shx 0x9E (.absoluteY (wordOf lo hi)))
  , undocRow "AHX*" .absoluteY (fun lo hi => .ahx 0x9F (.absoluteY (wordOf lo hi)))
  ]

/-- Row A of R168's map: opcodes 0xA0 to 0xAF. -/
def opRowsA : List OpRow :=
  [ docRow "LDY" .immediate 2 2 0 (fun lo _ => .ldy (.immediate lo))
  , docRow "LDA" .indexedIndirect 2 6 0 (fun lo _ => .lda (.indexedIndirect lo))
  , docRow "LDX" .immediate 2 2 0 (fun lo _ => .ldx (.immediate lo))
  , undocRow "LAX*" .indexedIndirect (fun lo _ => .lax 0xA3 (.indexedIndirect lo))
  , docRow "LDY" .zeroPage 2 3 0 (fun lo _ => .ldy (.zeroPage lo))
  , docRow "LDA" .zeroPage 2 3 0 (fun lo _ => .lda (.zeroPage lo))
  , docRow "LDX" .zeroPage 2 3 0 (fun lo _ => .ldx (.zeroPage lo))
  , undocRow "LAX*" .zeroPage (fun lo _ => .lax 0xA7 (.zeroPage lo))
  , docRow "TAY" .implied 1 2 0 (fun _ _ => .tay)
  , docRow "LDA" .immediate 2 2 0 (fun lo _ => .lda (.immediate lo))
  , docRow "TAX" .implied 1 2 0 (fun _ _ => .tax)
  , undocRow "LAX*" .immediate (fun _ _ => .lax 0xAB .unreadImmediate)
  , docRow "LDY" .absolute 3 4 0 (fun lo hi => .ldy (.absolute (wordOf lo hi)))
  , docRow "LDA" .absolute 3 4 0 (fun lo hi => .lda (.absolute (wordOf lo hi)))
  , docRow "LDX" .absolute 3 4 0 (fun lo hi => .ldx (.absolute (wordOf lo hi)))
  , undocRow "LAX*" .absolute (fun lo hi => .lax 0xAF (.absolute (wordOf lo hi)))
  ]

/-- Row B of R168's map: opcodes 0xB0 to 0xBF. -/
def opRowsB : List OpRow :=
  [ docRow "BCS" .relative 2 2 0 (fun lo _ => .bcs lo)
  , docRow "LDA" .indirectIndexed 2 5 1 (fun lo _ => .lda (.indirectIndexed lo))
  , undocRow "KIL*" .implied (fun _ _ => .kil 0xB2 .implied)
  , undocRow "LAX*" .indirectIndexed (fun lo _ => .lax 0xB3 (.indirectIndexed lo))
  , docRow "LDY" .zeroPageX 2 4 0 (fun lo _ => .ldy (.zeroPageX lo))
  , docRow "LDA" .zeroPageX 2 4 0 (fun lo _ => .lda (.zeroPageX lo))
  , docRow "LDX" .zeroPageY 2 4 0 (fun lo _ => .ldx (.zeroPageY lo))
  , undocRow "LAX*" .zeroPageY (fun lo _ => .lax 0xB7 (.zeroPageY lo))
  , docRow "CLV" .implied 1 2 0 (fun _ _ => .clv)
  , docRow "LDA" .absoluteY 3 4 1 (fun lo hi => .lda (.absoluteY (wordOf lo hi)))
  , docRow "TSX" .implied 1 2 0 (fun _ _ => .tsx)
  , undocRow "LAS*" .absoluteY (fun lo hi => .las 0xBB (.absoluteY (wordOf lo hi)))
  , docRow "LDY" .absoluteX 3 4 1 (fun lo hi => .ldy (.absoluteX (wordOf lo hi)))
  , docRow "LDA" .absoluteX 3 4 1 (fun lo hi => .lda (.absoluteX (wordOf lo hi)))
  , docRow "LDX" .absoluteY 3 4 1 (fun lo hi => .ldx (.absoluteY (wordOf lo hi)))
  , undocRow "LAX*" .absoluteY (fun lo hi => .lax 0xBF (.absoluteY (wordOf lo hi)))
  ]

/-- Row C of R168's map: opcodes 0xC0 to 0xCF. -/
def opRowsC : List OpRow :=
  [ docRow "CPY" .immediate 2 2 0 (fun lo _ => .cpy (.immediate lo))
  , docRow "CMP" .indexedIndirect 2 6 0 (fun lo _ => .cmp (.indexedIndirect lo))
  , undocRow "NOP*" .immediate (fun _ _ => .nopUndoc 0xC2 .unreadImmediate)
  , undocRow "DCP*" .indexedIndirect (fun lo _ => .dcp 0xC3 (.indexedIndirect lo))
  , docRow "CPY" .zeroPage 2 3 0 (fun lo _ => .cpy (.zeroPage lo))
  , docRow "CMP" .zeroPage 2 3 0 (fun lo _ => .cmp (.zeroPage lo))
  , docRow "DEC" .zeroPage 2 5 0 (fun lo _ => .dec (.zeroPage lo))
  , undocRow "DCP*" .zeroPage (fun lo _ => .dcp 0xC7 (.zeroPage lo))
  , docRow "INY" .implied 1 2 0 (fun _ _ => .iny)
  , docRow "CMP" .immediate 2 2 0 (fun lo _ => .cmp (.immediate lo))
  , docRow "DEX" .implied 1 2 0 (fun _ _ => .dex)
  , undocRow "AXS*" .immediate (fun _ _ => .axs 0xCB .unreadImmediate)
  , docRow "CPY" .absolute 3 4 0 (fun lo hi => .cpy (.absolute (wordOf lo hi)))
  , docRow "CMP" .absolute 3 4 0 (fun lo hi => .cmp (.absolute (wordOf lo hi)))
  , docRow "DEC" .absolute 3 6 0 (fun lo hi => .dec (.absolute (wordOf lo hi)))
  , undocRow "DCP*" .absolute (fun lo hi => .dcp 0xCF (.absolute (wordOf lo hi)))
  ]

/-- Row D of R168's map: opcodes 0xD0 to 0xDF. -/
def opRowsD : List OpRow :=
  [ docRow "BNE" .relative 2 2 0 (fun lo _ => .bne lo)
  , docRow "CMP" .indirectIndexed 2 5 1 (fun lo _ => .cmp (.indirectIndexed lo))
  , undocRow "KIL*" .implied (fun _ _ => .kil 0xD2 .implied)
  , undocRow "DCP*" .indirectIndexed (fun lo _ => .dcp 0xD3 (.indirectIndexed lo))
  , undocRow "NOP*" .zeroPageX (fun lo _ => .nopUndoc 0xD4 (.zeroPageX lo))
  , docRow "CMP" .zeroPageX 2 4 0 (fun lo _ => .cmp (.zeroPageX lo))
  , docRow "DEC" .zeroPageX 2 6 0 (fun lo _ => .dec (.zeroPageX lo))
  , undocRow "DCP*" .zeroPageX (fun lo _ => .dcp 0xD7 (.zeroPageX lo))
  , docRow "CLD" .implied 1 2 0 (fun _ _ => .cld)
  , docRow "CMP" .absoluteY 3 4 1 (fun lo hi => .cmp (.absoluteY (wordOf lo hi)))
  , undocRow "NOP*" .implied (fun _ _ => .nopUndoc 0xDA .implied)
  , undocRow "DCP*" .absoluteY (fun lo hi => .dcp 0xDB (.absoluteY (wordOf lo hi)))
  , undocRow "NOP*" .absoluteX (fun lo hi => .nopUndoc 0xDC (.absoluteX (wordOf lo hi)))
  , docRow "CMP" .absoluteX 3 4 1 (fun lo hi => .cmp (.absoluteX (wordOf lo hi)))
  , docRow "DEC" .absoluteX 3 7 0 (fun lo hi => .dec (.absoluteX (wordOf lo hi)))
  , undocRow "DCP*" .absoluteX (fun lo hi => .dcp 0xDF (.absoluteX (wordOf lo hi)))
  ]

/-- Row E of R168's map: opcodes 0xE0 to 0xEF. -/
def opRowsE : List OpRow :=
  [ docRow "CPX" .immediate 2 2 0 (fun lo _ => .cpx (.immediate lo))
  , docRow "SBC" .indexedIndirect 2 6 0 (fun lo _ => .sbc (.indexedIndirect lo))
  , undocRow "NOP*" .immediate (fun _ _ => .nopUndoc 0xE2 .unreadImmediate)
  , undocRow "ISC*" .indexedIndirect (fun lo _ => .isc 0xE3 (.indexedIndirect lo))
  , docRow "CPX" .zeroPage 2 3 0 (fun lo _ => .cpx (.zeroPage lo))
  , docRow "SBC" .zeroPage 2 3 0 (fun lo _ => .sbc (.zeroPage lo))
  , docRow "INC" .zeroPage 2 5 0 (fun lo _ => .inc (.zeroPage lo))
  , undocRow "ISC*" .zeroPage (fun lo _ => .isc 0xE7 (.zeroPage lo))
  , docRow "INX" .implied 1 2 0 (fun _ _ => .inx)
  , docRow "SBC" .immediate 2 2 0 (fun lo _ => .sbc (.immediate lo))
  , docRow "NOP" .implied 1 2 0 (fun _ _ => .nop)
  , undocRow "SBC*" .immediate (fun _ _ => .sbcUndoc 0xEB .unreadImmediate)
  , docRow "CPX" .absolute 3 4 0 (fun lo hi => .cpx (.absolute (wordOf lo hi)))
  , docRow "SBC" .absolute 3 4 0 (fun lo hi => .sbc (.absolute (wordOf lo hi)))
  , docRow "INC" .absolute 3 6 0 (fun lo hi => .inc (.absolute (wordOf lo hi)))
  , undocRow "ISC*" .absolute (fun lo hi => .isc 0xEF (.absolute (wordOf lo hi)))
  ]

/-- Row F of R168's map: opcodes 0xF0 to 0xFF. -/
def opRowsF : List OpRow :=
  [ docRow "BEQ" .relative 2 2 0 (fun lo _ => .beq lo)
  , docRow "SBC" .indirectIndexed 2 5 1 (fun lo _ => .sbc (.indirectIndexed lo))
  , undocRow "KIL*" .implied (fun _ _ => .kil 0xF2 .implied)
  , undocRow "ISC*" .indirectIndexed (fun lo _ => .isc 0xF3 (.indirectIndexed lo))
  , undocRow "NOP*" .zeroPageX (fun lo _ => .nopUndoc 0xF4 (.zeroPageX lo))
  , docRow "SBC" .zeroPageX 2 4 0 (fun lo _ => .sbc (.zeroPageX lo))
  , docRow "INC" .zeroPageX 2 6 0 (fun lo _ => .inc (.zeroPageX lo))
  , undocRow "ISC*" .zeroPageX (fun lo _ => .isc 0xF7 (.zeroPageX lo))
  , docRow "SED" .implied 1 2 0 (fun _ _ => .sed)
  , docRow "SBC" .absoluteY 3 4 1 (fun lo hi => .sbc (.absoluteY (wordOf lo hi)))
  , undocRow "NOP*" .implied (fun _ _ => .nopUndoc 0xFA .implied)
  , undocRow "ISC*" .absoluteY (fun lo hi => .isc 0xFB (.absoluteY (wordOf lo hi)))
  , undocRow "NOP*" .absoluteX (fun lo hi => .nopUndoc 0xFC (.absoluteX (wordOf lo hi)))
  , docRow "SBC" .absoluteX 3 4 1 (fun lo hi => .sbc (.absoluteX (wordOf lo hi)))
  , docRow "INC" .absoluteX 3 7 0 (fun lo hi => .inc (.absoluteX (wordOf lo hi)))
  , undocRow "ISC*" .absoluteX (fun lo hi => .isc 0xFF (.absoluteX (wordOf lo hi)))
  ]

/-- The 256-row opcode map (R167), indexed by the opcode value. -/
def opTable : List OpRow :=
  opRows0 ++ (opRows1 ++ (opRows2 ++ (opRows3 ++ (opRows4 ++ (opRows5 ++ (opRows6 ++ (opRows7 ++ (opRows8 ++ (opRows9 ++ (opRowsA ++ (opRowsB ++ (opRowsC ++ (opRowsD ++ (opRowsE ++ (opRowsF)))))))))))))))

/-- The row of an opcode value. The table has a row for every byte (R167; Laws/Decode.lean), so the default is never taken. -/
def opRow (op : Byte) : OpRow := opTable.getD op.toNat (docRow "BRK" .implied 2 7 0 (fun _ _ => .brk))

/-- How many operand bytes follow the opcode of a mode (R161). -/
def Mode.operandBytes : Mode → Nat
  | .implied => 0
  | .accumulator => 0
  | .immediate => 1
  | .zeroPage => 1
  | .zeroPageX => 1
  | .zeroPageY => 1
  | .indexedIndirect => 1
  | .indirectIndexed => 1
  | .relative => 1
  | .absolute => 2
  | .absoluteX => 2
  | .absoluteY => 2
  | .indirect => 2

/-- How many operand bytes an instruction of the row reads: its mode's (R161), but none for an undocumented immediate, whose
no-op reads nothing (40_execution_addressing.md R217, 46_undocumented.md R481; log 10). BRK, implied, reads none: its padding byte is skipped (R166). -/
def OpRow.readBytes (r : OpRow) : Nat :=
  if !r.documented && r.mode == .immediate then 0 else r.mode.operandBytes

/-- `length` of R481 and R167: how far the program counter advances. -/
def opLength (op : Byte) : Nat :=
  if (opRow op).documented then (opRow op).length else (Config.undocSizeLessOne op).val + 1

/-- `base_cycles` of R481 and R167. -/
def opBaseCycles (op : Byte) : Nat :=
  if (opRow op).documented then (opRow op).baseCycles else Config.undocCyclesLessOne op + 1

/-- Why a byte list is no instruction. Every opcode value has a row, so only a list that ends too early is none. -/
inductive DecodeError
  /-- The list is empty. -/
  | noOpcode
  /-- The list ends before the operand bytes of this opcode. -/
  | missingOperand (op : Byte)
  deriving DecidableEq, Repr

/-- The instruction at the head of a byte list (R160, R161, R167). -/
def decode : List Byte → Except DecodeError Instr
  | [] => .error .noOpcode
  | op :: rest =>
    match (opRow op).readBytes, rest with
    | 0, _ => .ok ((opRow op).build 0 0)
    | 1, lo :: _ => .ok ((opRow op).build lo 0)
    | 2, lo :: hi :: _ => .ok ((opRow op).build lo hi)
    | _, _ => .error (.missingOperand op)

/-- The instruction of the bits `w` numbered as spec/opcode_table.json numbers them: byte k of the instruction is bits 8k+7..8k. -/
def decodeTableWord (_nbits w : Nat) : Option Instr :=
  match decode [BitVec.ofNat 8 w, BitVec.ofNat 8 (w / 0x100), BitVec.ofNat 8 (w / 0x10000)] with
  | .ok i => some i
  | .error _ => none

/-! ### The encoder -/

/-- The opcode of the operand's mode, given the opcodes in the order the rules list them. -/
def ReadOperand.opcode (imm zp zpx abs absx absy indx indy : Byte) : ReadOperand → Byte
  | .immediate _ => imm
  | .zeroPage _ => zp
  | .zeroPageX _ => zpx
  | .absolute _ => abs
  | .absoluteX _ => absx
  | .absoluteY _ => absy
  | .indexedIndirect _ => indx
  | .indirectIndexed _ => indy

/-- The opcode of the operand's mode, given the opcodes in the order the rules list them. -/
def LdxOperand.opcode (imm zp zpy abs absy : Byte) : LdxOperand → Byte
  | .immediate _ => imm
  | .zeroPage _ => zp
  | .zeroPageY _ => zpy
  | .absolute _ => abs
  | .absoluteY _ => absy

/-- The opcode of the operand's mode, given the opcodes in the order the rules list them. -/
def LdyOperand.opcode (imm zp zpx abs absx : Byte) : LdyOperand → Byte
  | .immediate _ => imm
  | .zeroPage _ => zp
  | .zeroPageX _ => zpx
  | .absolute _ => abs
  | .absoluteX _ => absx

/-- The opcode of the operand's mode, given the opcodes in the order the rules list them. -/
def StaOperand.opcode (zp zpx abs absx absy indx indy : Byte) : StaOperand → Byte
  | .zeroPage _ => zp
  | .zeroPageX _ => zpx
  | .absolute _ => abs
  | .absoluteX _ => absx
  | .absoluteY _ => absy
  | .indexedIndirect _ => indx
  | .indirectIndexed _ => indy

/-- The opcode of the operand's mode, given the opcodes in the order the rules list them. -/
def StxOperand.opcode (zp zpy abs : Byte) : StxOperand → Byte
  | .zeroPage _ => zp
  | .zeroPageY _ => zpy
  | .absolute _ => abs

/-- The opcode of the operand's mode, given the opcodes in the order the rules list them. -/
def StyOperand.opcode (zp zpx abs : Byte) : StyOperand → Byte
  | .zeroPage _ => zp
  | .zeroPageX _ => zpx
  | .absolute _ => abs

/-- The opcode of the operand's mode, given the opcodes in the order the rules list them. -/
def BitOperand.opcode (zp abs : Byte) : BitOperand → Byte
  | .zeroPage _ => zp
  | .absolute _ => abs

/-- The opcode of the operand's mode, given the opcodes in the order the rules list them. -/
def IndexOperand.opcode (imm zp abs : Byte) : IndexOperand → Byte
  | .immediate _ => imm
  | .zeroPage _ => zp
  | .absolute _ => abs

/-- The opcode of the operand's mode, given the opcodes in the order the rules list them. -/
def ModifyOperand.opcode (zp zpx abs absx : Byte) : ModifyOperand → Byte
  | .zeroPage _ => zp
  | .zeroPageX _ => zpx
  | .absolute _ => abs
  | .absoluteX _ => absx

/-- The opcode of the operand's mode, given the opcodes in the order the rules list them. -/
def ShiftOperand.opcode (acc zp zpx abs absx : Byte) : ShiftOperand → Byte
  | .accumulator => acc
  | .zeroPage _ => zp
  | .zeroPageX _ => zpx
  | .absolute _ => abs
  | .absoluteX _ => absx

/-- The opcode of the operand's mode, given the opcodes in the order the rules list them. -/
def JumpOperand.opcode (abs ind : Byte) : JumpOperand → Byte
  | .absolute _ => abs
  | .indirect _ => ind

/-- The opcode value of an instruction, from the Encodings line of its rule. -/
def Instr.opcode : Instr → Byte
  | .lda o => o.opcode 0xA9 0xA5 0xB5 0xAD 0xBD 0xB9 0xA1 0xB1
  | .ldx o => o.opcode 0xA2 0xA6 0xB6 0xAE 0xBE
  | .ldy o => o.opcode 0xA0 0xA4 0xB4 0xAC 0xBC
  | .sta o => o.opcode 0x85 0x95 0x8D 0x9D 0x99 0x81 0x91
  | .stx o => o.opcode 0x86 0x96 0x8E
  | .sty o => o.opcode 0x84 0x94 0x8C
  | .tax => 0xAA
  | .tay => 0xA8
  | .txa => 0x8A
  | .tya => 0x98
  | .tsx => 0xBA
  | .txs => 0x9A
  | .adc o => o.opcode 0x69 0x65 0x75 0x6D 0x7D 0x79 0x61 0x71
  | .sbc o => o.opcode 0xE9 0xE5 0xF5 0xED 0xFD 0xF9 0xE1 0xF1
  | .and o => o.opcode 0x29 0x25 0x35 0x2D 0x3D 0x39 0x21 0x31
  | .ora o => o.opcode 0x09 0x05 0x15 0x0D 0x1D 0x19 0x01 0x11
  | .eor o => o.opcode 0x49 0x45 0x55 0x4D 0x5D 0x59 0x41 0x51
  | .bit o => o.opcode 0x24 0x2C
  | .cmp o => o.opcode 0xC9 0xC5 0xD5 0xCD 0xDD 0xD9 0xC1 0xD1
  | .cpx o => o.opcode 0xE0 0xE4 0xEC
  | .cpy o => o.opcode 0xC0 0xC4 0xCC
  | .inc o => o.opcode 0xE6 0xF6 0xEE 0xFE
  | .dec o => o.opcode 0xC6 0xD6 0xCE 0xDE
  | .inx => 0xE8
  | .iny => 0xC8
  | .dex => 0xCA
  | .dey => 0x88
  | .asl o => o.opcode 0x0A 0x06 0x16 0x0E 0x1E
  | .lsr o => o.opcode 0x4A 0x46 0x56 0x4E 0x5E
  | .rol o => o.opcode 0x2A 0x26 0x36 0x2E 0x3E
  | .ror o => o.opcode 0x6A 0x66 0x76 0x6E 0x7E
  | .bcc _ => 0x90
  | .bcs _ => 0xB0
  | .beq _ => 0xF0
  | .bmi _ => 0x30
  | .bne _ => 0xD0
  | .bpl _ => 0x10
  | .bvc _ => 0x50
  | .bvs _ => 0x70
  | .jmp o => o.opcode 0x4C 0x6C
  | .jsr _ => 0x20
  | .rts => 0x60
  | .pha => 0x48
  | .php => 0x08
  | .pla => 0x68
  | .plp => 0x28
  | .clc => 0x18
  | .cld => 0xD8
  | .cli => 0x58
  | .clv => 0xB8
  | .sec => 0x38
  | .sed => 0xF8
  | .sei => 0x78
  | .brk => 0x00
  | .rti => 0x40
  | .nop => 0xEA
  | .kil op _ => op
  | .nopUndoc op _ => op
  | .slo op _ => op
  | .rla op _ => op
  | .sre op _ => op
  | .rra op _ => op
  | .dcp op _ => op
  | .isc op _ => op
  | .sax op _ => op
  | .lax op _ => op
  | .anc op _ => op
  | .alr op _ => op
  | .arr op _ => op
  | .xaa op _ => op
  | .axs op _ => op
  | .sbcUndoc op _ => op
  | .ahx op _ => op
  | .shy op _ => op
  | .shx op _ => op
  | .tas op _ => op
  | .las op _ => op

/-- The bytes of an operand after the opcode (R161), a 16-bit one low byte first (20_memory.md R101). -/
def Operand.bytes : Operand → List Byte
  | .implied => []
  | .accumulator => []
  | .immediate b => [b]
  | .unreadImmediate => []
  | .zeroPage b => [b]
  | .zeroPageX b => [b]
  | .zeroPageY b => [b]
  | .indexedIndirect b => [b]
  | .indirectIndexed b => [b]
  | .relative b => [b]
  | .absolute w => [Word.lo w, Word.hi w]
  | .absoluteX w => [Word.lo w, Word.hi w]
  | .absoluteY w => [Word.lo w, Word.hi w]
  | .indirect w => [Word.lo w, Word.hi w]

/-- The bytes of an instruction: the opcode and the operand bytes it reads. BRK has one byte more, its padding byte (R166), which
nothing reads and the encoder writes as 0 (DESIGN CHOICE, log 11). -/
def encode : Instr → List Byte
  | .brk => [0x00, 0x00]
  | i => i.opcode :: i.operand.bytes

end Sys2Proof
end

