-- ==== Sys2Proof/Machine/PpuRegisters.lean ====
section
/-! DEFINITION. The picture unit's eight registers (61_ppu.md R560 to R568). -/

namespace Sys2Proof.Machine

/-- The control latch of a PPUCTRL byte (R561). -/
def PpuCtrl.ofByte (v : Byte) : PpuCtrl where
  ntSelect := (fieldOf ctrlLayout .ntSelect v).setWidth 2
  inc32 := flagOf ctrlLayout .inc32 v
  spriteTable := flagOf ctrlLayout .spriteTable v
  bgTable := flagOf ctrlLayout .bgTable v
  spriteSize16 := flagOf ctrlLayout .spriteSize16 v
  masterSlave := flagOf ctrlLayout .masterSlave v
  nmiOutput := flagOf ctrlLayout .nmiOutput v

/-- The mask latch of a PPUMASK byte (R562). -/
def PpuMask.ofByte (v : Byte) : PpuMask where
  grayscale := flagOf maskLayout .grayscale v
  showLeftBg := flagOf maskLayout .showLeftBg v
  showLeftSprites := flagOf maskLayout .showLeftSprites v
  showBg := flagOf maskLayout .showBg v
  showSprites := flagOf maskLayout .showSprites v
  emphRed := flagOf maskLayout .emphRed v
  emphGreen := flagOf maskLayout .emphGreen v
  emphBlue := flagOf maskLayout .emphBlue v

/-- PPUCTRL write (R561): the latch, the NMI arming, and bits 1:0 into t[11:10]. -/
def Ppu.writeCtrl (delay : Nat) (p : Ppu) (b : Byte) : Ppu :=
  let p' := Ppu.nmiChange delay { p with ctrl := PpuCtrl.ofByte b }
  { p' with t := (p.t &&& 0x73FF#15) ||| ((b.setWidth 15 &&& 0x0003#15) <<< 10) }

/-- The value of a PPUSTATUS field (R563). -/
def Ppu.statusField (p : Ppu) : StatusField → Byte
  | .lastWrite => p.lastWrite
  | .spriteOverflow => (BitVec.ofBool p.spriteOverflow).setWidth 8
  | .sprite0Hit => (BitVec.ofBool p.sprite0Hit).setWidth 8
  | .vblank => (BitVec.ofBool p.vblank).setWidth 8

/-- The byte a PPUSTATUS read returns (R563). -/
def Ppu.statusByte (p : Ppu) : Byte := byteOf statusLayout p.statusField

/-- What a PPUSTATUS read changes (R563): vblank cleared, the NMI arming recomputed, the write toggle cleared. -/
def Ppu.afterStatusRead (delay : Nat) (p : Ppu) : Ppu :=
  { Ppu.nmiChange delay { p with vblank := false } with w := false }

/-- OAMDATA write and one byte of the OAM DMA (R564, 20_memory.md R130): store at `oam_addr` and advance it. -/
def Ppu.writeOam (p : Ppu) (b : Byte) : Ppu :=
  { p with oam := Sparse.write p.oam p.oamAddr.toNat b, oamAddr := p.oamAddr + 1 }

/-- OAMDATA read (R564). -/
def Ppu.readOam (p : Ppu) : Byte := Sparse.read p.oam p.oamAddr.toNat

/-- PPUSCROLL write (R565). -/
def Ppu.writeScroll (p : Ppu) (b : Byte) : Ppu :=
  let v := b.setWidth 15
  if p.w then
    { p with
      t := (p.t &&& 0x0C1F#15) ||| ((v &&& 0x0007#15) <<< 12) ||| ((v &&& 0x00F8#15) <<< 2)
      w := false }
  else { p with t := (p.t &&& 0x7FE0#15) ||| (v >>> 3), fineX := b.extractLsb' 0 3, w := true }

/-- PPUADDR write (R566). -/
def Ppu.writeAddr (p : Ppu) (b : Byte) : Ppu :=
  let v := b.setWidth 15
  if p.w then
    let t' := (p.t &&& 0x7F00#15) ||| v
    { p with t := t', v := t', w := false }
  else { p with t := (p.t &&& 0x00FF#15) ||| ((v &&& 0x003F#15) <<< 8), w := true }

/-- The address v after a data-port access: 1 or 32 further, modulo 2^15 (R567). -/
def Ppu.stepAddress (p : Ppu) : Ppu := { p with v := p.v + (if p.ctrl.inc32 then 32#15 else 1#15) }

/-- PPUDATA read (R567): buffered below 0x3F00, direct for the palette, whose read refills the buffer from 0x1000 below. -/
def ppuDataRead (s : State) : Byte × State :=
  let a := s.ppu.v.toNat
  let d := ppuRead s a
  let buffered := decide (a % 0x4000 < 0x3F00)
  let value := if buffered then s.ppu.readBuffer else d
  let refill := if buffered then d else ppuRead s (a - 0x1000)
  (value, { s with ppu := { s.ppu with readBuffer := refill }.stepAddress })

/-- PPUDATA write (R567). -/
def ppuDataWrite (s : State) (b : Byte) : State :=
  let s' := ppuWrite s s.ppu.v.toNat b
  { s' with ppu := s'.ppu.stepAddress }

/-- `PpuRegRead(0x2000 + r)` (R568). -/
def ppuRegRead (r : Nat) (s : State) : Byte × State :=
  match r with
  | 2 => (s.ppu.statusByte, { s with ppu := s.ppu.afterStatusRead s.cfg.nmiDelay })
  | 4 => (s.ppu.readOam, s)
  | 7 => ppuDataRead s
  | _ => (0, s)

/-- `PpuRegWrite(0x2000 + r, b)` (R568): the byte goes to `last_write` first. -/
def ppuRegWrite (r : Nat) (b : Byte) (s : State) : State :=
  let p := { s.ppu with lastWrite := b }
  match r with
  | 0 => { s with ppu := p.writeCtrl s.cfg.nmiDelay b }
  | 1 => { s with ppu := { p with mask := PpuMask.ofByte b } }
  | 3 => { s with ppu := { p with oamAddr := b } }
  | 4 => { s with ppu := p.writeOam b }
  | 5 => { s with ppu := p.writeScroll b }
  | 6 => { s with ppu := p.writeAddr b }
  | 7 => ppuDataWrite { s with ppu := p } b
  | _ => { s with ppu := p }

end Sys2Proof.Machine
end

