-- ==== Sys2Proof/Machine/Bus.lean ====
section
/-! DEFINITION. Processor space (20_memory.md): routing, controllers, OAM DMA, and the 16-bit reads. -/

namespace Sys2Proof.Machine

/-- An access the mapper does not map (62_mappers.md R652): where, and whether it reads or writes. -/
structure BusFault where
  address : Word
  access : Access
  deriving DecidableEq, Repr

/-- The result of a computation that accesses the bus: a value and the state after it, or the fault and the state it is taken
in, with the earlier writes made (60_exceptions.md R521). -/
inductive Res (α : Type) where
  | ok (v : α) (s : State)
  | fault (e : BusFault) (s : State)
  deriving Repr

/-- Go on with a value; a fault ends the computation. -/
def Res.andThen {α β : Type} (r : Res α) (k : α → State → Res β) : Res β :=
  match r with
  | .ok v s => k v s
  | .fault e s => .fault e s

/-! ### Controllers -/

/-- The port's state (R51). -/
def State.port (s : State) : Port → Controller
  | .one => s.port1
  | .two => s.port2

/-- The machine with the port's state replaced. -/
def State.setPort (s : State) (p : Port) (c : Controller) : State :=
  match p with
  | .one => { s with port1 := c }
  | .two => { s with port2 := c }

/-- The byte `ControllerRead(p)` returns (R140): the button at the index of the snapshot this read draws (log 3), 0 past the eighth. -/
def controllerByte (p : Port) (c : Controller) : Byte :=
  if c.index < 8 then (BitVec.ofBool ((Config.buttons p c.draws).getLsbD c.index)).setWidth 8 else 0

/-- The port after a read (R140): the index advances, but stays 0 while the strobe bit is held. -/
def Controller.afterRead (c : Controller) : Controller :=
  { c with index := if c.strobe.getLsbD 0 then 0 else c.index + 1, draws := c.draws + 1 }

/-- `ControllerRead(p)` (R140). -/
def controllerRead (p : Port) (s : State) : Byte × State :=
  (controllerByte p (s.port p), s.setPort p (s.port p).afterRead)

/-- `ControllerWrite(p, v)` (R141). -/
def controllerWrite (p : Port) (v : Byte) (s : State) : State :=
  let c := s.port p
  s.setPort p { c with strobe := v, index := if v.getLsbD 0 then 0 else c.index }

/-! ### One-byte accesses -/

/-- The RAM index of an address below 0x2000 (R103). -/
def ramIndex (a : Word) : Nat := a.toNat % 0x800

/-- `MemRead(addr, 1)` (R110). -/
def memRead (a : Word) (s : State) : Res Byte :=
  let n := a.toNat
  if n < 0x2000 then .ok (Sparse.read s.ram (ramIndex a)) s
  else if n < 0x4000 then .ok (ppuRegRead (n % 8) s).1 (ppuRegRead (n % 8) s).2
  else if n = 0x4014 then .ok 0 s
  else if n = 0x4016 then .ok (controllerRead .one s).1 (controllerRead .one s).2
  else if n = 0x4017 then .ok (controllerRead .two s).1 (controllerRead .two s).2
  else if n < 0x4020 then .ok 0 s
  else if n < 0x6000 ∧ s.cfg.expansionRouting = .zero then .ok 0 s
  else
    match s.cart.read n with
    | some b => .ok b s
    | none => .fault ⟨a, .read⟩ s

/-- The copy loop of `OamDma` (R130): `n` bytes from address `a` on, each through `MemRead` with its side effects. -/
def oamCopy : Nat → Word → State → Res Unit
  | 0, _, s => .ok () s
  | n + 1, a, s => (memRead a s).andThen fun b s' => oamCopy n (a + 1) { s' with ppu := s'.ppu.writeOam b }

/-- The stall cycles a DMA adds (R130): 513, and one more when the cycle counter has the parity `DMA_ODD_EXTRA`. -/
def dmaStall (cfg : Config) (cycles : Nat) : Nat :=
  match cfg.dmaOddExtra with
  | .odd => if cycles % 2 = 1 then 514 else 513
  | .even => if cycles % 2 = 0 then 514 else 513

/-- `OamDma(v)` (R130). -/
def oamDma (v : Byte) (s : State) : Res Unit :=
  (oamCopy 256 (wordOf 0 v) s).andThen fun _ s' =>
    .ok () { s' with cpu := { s'.cpu with stall := s'.cpu.stall + dmaStall s'.cfg s'.cpu.cycles } }

/-- A write to console RAM (R103). -/
def State.writeRam (s : State) (a : Word) (v : Byte) : State := { s with ram := Sparse.write s.ram (ramIndex a) v }

/-- `MemWrite(addr, 1, v)` (R110). -/
def memWrite (a : Word) (v : Byte) (s : State) : Res Unit :=
  let n := a.toNat
  if n < 0x2000 then .ok () (s.writeRam a v)
  else if n < 0x4000 then .ok () (ppuRegWrite (n % 8) v s)
  else if n = 0x4014 then oamDma v s
  else if n = 0x4016 then .ok () (controllerWrite .one v s)
  else if n = 0x4017 then .ok () (controllerWrite .two v s)
  else if n < 0x4020 then .ok () s
  else if n < 0x6000 ∧ s.cfg.expansionRouting = .zero then .ok () s
  else
    match s.cart.write n v with
    | some c => .ok () { s with cart := c }
    | none => .fault ⟨a, .write⟩ s

/-! ### 16-bit reads -/

/-- `MemRead(addr, 2)` (R102): low byte at `addr`, high byte at the next address, modulo 65536. -/
def memRead16 (a : Word) (s : State) : Res Word :=
  (memRead a s).andThen fun lo s1 => (memRead (a + 1) s1).andThen fun hi s2 => .ok (wordOf lo hi) s2

/-- The next address within the same 256-byte page (R111). -/
def nextInPage (a : Word) : Word := (a &&& 0xFF00#16) ||| ((a + 1) &&& 0x00FF#16)

/-- `MemReadPage(addr)` (R111): the high byte comes from the same page. -/
def memReadPage (a : Word) (s : State) : Res Word :=
  (memRead a s).andThen fun lo s1 => (memRead (nextInPage a) s1).andThen fun hi s2 => .ok (wordOf lo hi) s2

end Sys2Proof.Machine
end

