-- ==== Sys2Proof/Machine/Flags.lean ====
section
/-! DEFINITION. The status byte and every flag computation of 42 and 43. -/

namespace Sys2Proof.Machine

/-- A flag as a bit. -/
def bit (b : Bool) : BitVec 1 := BitVec.ofBool b

/-- P = N<<7 | V<<6 | U<<5 | B<<4 | D<<3 | I<<2 | Z<<1 | C (10_state.md R37). -/
def Flags.pack (f : Flags) : Byte :=
  bit f.n ++ bit f.v ++ bit f.u ++ bit f.b ++ bit f.d ++ bit f.i ++ bit f.z ++ bit f.c

/-- The eight flags of a status byte (R37). -/
def Flags.unpack (p : Byte) : Flags where
  c := p.getLsbD 0
  z := p.getLsbD 1
  i := p.getLsbD 2
  d := p.getLsbD 3
  b := p.getLsbD 4
  u := p.getLsbD 5
  v := p.getLsbD 6
  n := p.getLsbD 7

/-- The byte that every push of the status writes: bits 4 and 5 forced to 1 (R37, 45_stack_flags_system.md R431). -/
def Flags.pushed (f : Flags) : Byte := f.pack ||| 0x30#8

/-- The flags PLP and RTI take from a pulled byte: B becomes 0 and U becomes 1 whatever it holds (R433, R442). -/
def Flags.pulled (p : Byte) : Flags := { Flags.unpack p with b := false, u := true }

/-- `SetZN(v)` (00_scope.md R14). -/
def Flags.setZN (f : Flags) (v : Byte) : Flags := { f with z := v == 0, n := v.getLsbD 7 }

/-- A result byte with the carry and the overflow it leaves. -/
structure Sum where
  result : Byte
  carry : Bool
  overflow : Bool
  deriving DecidableEq, Repr

/-- The sum of ADC (42_arith_logic_compare.md R301): natural-number sum, carry when it exceeds 255, overflow from the sign bits. -/
def addWithCarry (a m : Byte) (c : Bool) : Sum :=
  let s := a.toNat + m.toNat + c.toNat
  let r := BitVec.ofNat 8 s
  { result := r, carry := decide (s > 255), overflow := ((a ^^^ r) &&& (m ^^^ r) &&& 0x80#8) != 0 }

/-- The difference of SBC (R302): integer difference, carry when it is not negative, overflow from the sign bits. -/
def subWithBorrow (a m : Byte) (c : Bool) : Sum :=
  let d : Int := a.toNat - m.toNat - (1 - c.toNat)
  let r := BitVec.ofInt 8 d
  { result := r, carry := decide (d ≥ 0), overflow := ((a ^^^ m) &&& (a ^^^ r) &&& 0x80#8) != 0 }

/-- The flags after ADC or SBC (R301, R302). -/
def Flags.ofSum (f : Flags) (s : Sum) : Flags := { f.setZN s.result with c := s.carry, v := s.overflow }

/-- The flags after CMP, CPX or CPY of register `r` with `m` (R307): C when r ≥ m, Z and N of the 8-bit difference. -/
def Flags.compare (f : Flags) (r m : Byte) : Flags := { f.setZN (r - m) with c := decide (r.toNat ≥ m.toNat) }

/-- The flags after BIT (R306). -/
def Flags.bitTest (f : Flags) (a m : Byte) : Flags :=
  { f with z := (a &&& m) == 0, v := m.getLsbD 6, n := m.getLsbD 7 }

/-- A shifted byte and the bit shifted out. -/
structure Shifted where
  result : Byte
  out : Bool
  deriving DecidableEq, Repr

/-- ASL (43_incdec_shift.md R357). The old carry is not used. -/
def shiftLeft (_c : Bool) (m : Byte) : Shifted := { result := m <<< 1, out := m.getLsbD 7 }

/-- LSR (R358). The old carry is not used. -/
def shiftRight (_c : Bool) (m : Byte) : Shifted := { result := m >>> 1, out := m.getLsbD 0 }

/-- ROL (R359): the old carry enters bit 0. -/
def rotateLeft (c : Bool) (m : Byte) : Shifted :=
  { result := (m <<< 1) ||| (bit c).setWidth 8, out := m.getLsbD 7 }

/-- ROR (R360): the old carry enters bit 7. -/
def rotateRight (c : Bool) (m : Byte) : Shifted :=
  { result := (m >>> 1) ||| ((bit c).setWidth 8 <<< 7), out := m.getLsbD 0 }

/-- The flags after a shift or a rotate (R357 to R360). -/
def Flags.ofShift (f : Flags) (s : Shifted) : Flags := { f.setZN s.result with c := s.out }

end Sys2Proof.Machine
end

