-- ==== Sys2Proof/Machine/Ops.lean ====
section
/-! DEFINITION. Named operations over registers and the stack, taking an exception, and the return from one. -/

namespace Sys2Proof.Machine

/-! ### Registers -/

/-- `A <- v`. -/
def State.setA (s : State) (v : Byte) : State := { s with cpu := { s.cpu with a := v } }

/-- `X <- v`. -/
def State.setX (s : State) (v : Byte) : State := { s with cpu := { s.cpu with x := v } }

/-- `Y <- v`. -/
def State.setY (s : State) (v : Byte) : State := { s with cpu := { s.cpu with y := v } }

/-- `SP <- v`. -/
def State.setSp (s : State) (v : Byte) : State := { s with cpu := { s.cpu with sp := v } }

/-- `PC <- v`. -/
def State.setPc (s : State) (v : Word) : State := { s with cpu := { s.cpu with pc := v } }

/-- All eight flags written. -/
def State.setFlags (s : State) (f : Flags) : State := { s with cpu := { s.cpu with flags := f } }

/-- `SetZN(v)` (00_scope.md R14). -/
def State.setZN (s : State) (v : Byte) : State := s.setFlags (s.cpu.flags.setZN v)

/-- Cycles charged to the counter (10_state.md R43). -/
def State.addCycles (s : State) (n : Nat) : State := { s with cpu := { s.cpu with cycles := s.cpu.cycles + n } }

/-! ### The stack (10_state.md R39, R40) -/

/-- The stack address 0x0100 | SP. -/
def stackAddress (sp : Byte) : Word := 0x0100#16 ||| sp.setWidth 16

/-- `Push(v)`. The stack address is always RAM, so this is `MemWrite(0x0100 | SP, 1, v)` (proved in Laws/Ops.lean). -/
def State.push (s : State) (v : Byte) : State := (s.writeRam (stackAddress s.cpu.sp) v).setSp (s.cpu.sp - 1)

/-- The byte `Pull()` returns. -/
def State.pulledByte (s : State) : Byte := Sparse.read s.ram (ramIndex (stackAddress (s.cpu.sp + 1)))

/-- The state after `Pull()`. -/
def State.afterPull (s : State) : State := s.setSp (s.cpu.sp + 1)

/-- `Push16(w)`: high byte first. -/
def State.push16 (s : State) (w : Word) : State := (s.push (Word.hi w)).push (Word.lo w)

/-- The word `Pull16()` returns: low byte first. -/
def State.pulledWord (s : State) : Word := wordOf s.pulledByte s.afterPull.pulledByte

/-- The state after `Pull16()`. -/
def State.afterPull16 (s : State) : State := s.afterPull.afterPull

/-! ### Exceptions -/

/-- The little-endian pointer at a vector address. Vectors lie in 0x8000 to 0xFFFF, so this is `MemRead(vec, 2)` without side
effects (20_memory.md R114; proved in Laws/Ops.lean). -/
def readVector (vec : Word) (s : State) : Word :=
  wordOf (s.cart.prgRead vec.toNat) (s.cart.prgRead (vec + 1).toNat)

/-- The NMI vector (20_memory.md R114). -/
def nmiVector : Word := 0xFFFA#16

/-- The reset vector (R114). -/
def resetVector : Word := 0xFFFC#16

/-- The IRQ and force-interrupt vector (R114). -/
def irqVector : Word := 0xFFFE#16

/-- TAKING AN EXCEPTION (60_exceptions.md R505, 45_stack_flags_system.md R441): the program counter is pushed high byte first, then
the status with bits 4 and 5 forced to 1; I is set; the program counter is loaded from the vector. -/
def takeException (vec : Word) (s : State) : State :=
  let pushed := (s.push16 s.cpu.pc).push s.cpu.flags.pushed
  (pushed.setFlags { pushed.cpu.flags with i := true }).setPc (readVector vec pushed)

/-- THE RETURN FROM AN EXCEPTION (45_stack_flags_system.md R442): the flags from the pulled byte, then the program counter. -/
def returnFromException (s : State) : State :=
  let s1 := s.afterPull.setFlags (Flags.pulled s.pulledByte)
  s1.afterPull16.setPc s1.pulledWord

/-- The vector of the interrupt that step 2 of a processor step services, if any (R505). -/
def pendingVector (s : State) : Option Word :=
  match s.cpu.latch with
  | .nmi => some nmiVector
  | .irq => if s.cfg.irqMaskAt = .request ∨ s.cpu.flags.i = false then some irqVector else none
  | .none => none

/-- An interrupt entry (R505): the exception, 7 cycles, and the latch cleared. -/
def enterInterrupt (vec : Word) (s : State) : State :=
  let s' := (takeException vec s).addCycles 7
  { s' with cpu := { s'.cpu with latch := .none } }

/-- `ServiceInterrupt()` (R505). -/
def serviceInterrupt (s : State) : State :=
  match pendingVector s with
  | some vec => enterInterrupt vec s
  | none => s

/-! ### Faults -/

/-- The record of a mapper protocol violation (60_exceptions.md R520, code F1). -/
def BusFault.record (e : BusFault) (op : Option Byte) : FaultRecord where
  code := .mapperUnmapped
  address := e.address
  opcode := op
  component := .mapper
  access := e.access

/-- The stuck state (R521, R522): `halted` set and the record kept. -/
def State.halt (s : State) (r : FaultRecord) : State := { s with halted := true, faultRecord := some r }

/-- The fault outcome of an access taken in the given state, with the opcode at `PC_op` where it is known (log 8). -/
def faultOutcome (e : BusFault) (op : Option Byte) (s : State) : Fault :=
  .mapperUnmapped (e.record op) (s.halt (e.record op))

/-- The outcome of an instruction with the given opcode. -/
def Res.conclude (op : Byte) : Res Unit → Host.Outcome State Fault Refusal
  | .ok _ s => .next s
  | .fault e s => .fault (faultOutcome e (some op) s)

end Sys2Proof.Machine
end

