-- ==== Sys2Proof/Machine/Operands.lean ====
section
/-! DEFINITION. Steps 4 and 5 of the processor step (40_execution_addressing.md R205): the effective address of every operand form
(R210 to R222), the program counter's advance and the base cycles; and the frame `perform` that every meaning stands in. -/

namespace Sys2Proof.Machine

/-- An effective address and whether indexing left the base's page (R208). -/
structure Effective where
  ea : Word
  crossed : Bool
  deriving DecidableEq, Repr

/-- Two addresses lie in different pages: their bits 15:8 differ (00_scope.md R20, R208). -/
def pageDiffers (a b : Word) : Bool := Word.hi a != Word.hi b

/-- An indexed address: the 16-bit sum, and whether it left the base's page (R211, R212, R216). -/
def indexed (base : Word) (i : Byte) : Effective :=
  let ea := base + i.setWidth 16
  { ea := ea, crossed := pageDiffers base ea }

/-- A zero-page address (R221). -/
def zeroPageAddress (zp : Byte) : Word := zp.setWidth 16

/-- The target of a relative operand: a signed offset from the address of the next instruction (R218, 00_scope.md R13). -/
def relativeTarget (pcOp : Word) (off : Byte) : Word := pcOp + 2 + off.signExtend 16

/-- `EffectiveAddress(mode)` with the program counter at the opcode (R209 to R222). Operand bytes are already in the operand;
pointer bytes are read here, through the bus. -/
def resolve (o : Operand) (s : State) : Res Effective :=
  match o with
  | .implied => .ok ⟨0, false⟩ s
  | .accumulator => .ok ⟨0, false⟩ s
  | .immediate _ => .ok ⟨s.cpu.pc + 1, false⟩ s
  | .unreadImmediate => .ok ⟨s.cpu.pc + 1, false⟩ s
  | .zeroPage zp => .ok ⟨zeroPageAddress zp, false⟩ s
  | .zeroPageX zp => .ok ⟨zeroPageAddress (zp + s.cpu.x), false⟩ s
  | .zeroPageY zp => .ok ⟨zeroPageAddress (zp + s.cpu.y), false⟩ s
  | .indexedIndirect zp =>
    (memReadPage (zeroPageAddress (zp + s.cpu.x)) s).andThen fun ea s' => .ok ⟨ea, false⟩ s'
  | .indirectIndexed zp =>
    (memReadPage (zeroPageAddress zp) s).andThen fun base s' => .ok (indexed base s'.cpu.y) s'
  | .relative off => .ok ⟨relativeTarget s.cpu.pc off, false⟩ s
  | .absolute addr => .ok ⟨addr, false⟩ s
  | .absoluteX addr => .ok (indexed addr s.cpu.x) s
  | .absoluteY addr => .ok (indexed addr s.cpu.y) s
  | .indirect ptr => (memReadPage ptr s).andThen fun ea s' => .ok ⟨ea, false⟩ s'

/-- Cycles charged in step 5: base cycles, and the page penalty when the page was crossed (R205, R208). -/
def chargedCycles (op : Byte) (crossed : Bool) : Nat :=
  opBaseCycles op + (if crossed then (opRow op).pagePenalty else 0)

/-- Step 5 (R205): the program counter moves past the instruction and the cycles are charged. -/
def advancePast (op : Byte) (crossed : Bool) (s : State) : State :=
  (s.setPc (s.cpu.pc + BitVec.ofNat 16 (opLength op))).addCycles (chargedCycles op crossed)

/-- Steps 4 to 6 for an instruction (R205), with the program counter at its opcode and its operand bytes read: resolve the
address, advance, run the handler on the effective address. -/
def perform (i : Instr) (s : State) (handler : Word → State → Res Unit) : Host.Outcome State Fault Refusal :=
  ((resolve i.operand s).andThen fun e s' => handler e.ea (advancePast i.opcode e.crossed s')).conclude i.opcode

/-- `M` (R207): the operand byte of the immediate mode, which the fetch has read (log 9), and `MemRead(ea, 1)` otherwise. -/
def operandByte (o : Operand) (ea : Word) (s : State) : Res Byte :=
  match o with
  | .immediate imm => .ok imm s
  | _ => memRead ea s

/-- A handler that reads `M` once and then only changes the processor or another part of the state by `f`. -/
def readingM (o : Operand) (f : Byte → State → State) (ea : Word) (s : State) : Res Unit :=
  (operandByte o ea s).andThen fun m s' => .ok () (f m s')

/-- A handler that makes no access. -/
def changing (f : State → State) (_ea : Word) (s : State) : Res Unit := .ok () (f s)

/-- A handler that stores a byte of the state at `ea` and changes nothing else (R254 to R256). -/
def storing (f : State → Byte) (ea : Word) (s : State) : Res Unit := memWrite ea (f s) s

/-- A read-modify-write handler (43_incdec_shift.md R350): one read, one write, then the flags of `g`. -/
def modifying (f : Bool → Byte → Byte) (g : Flags → Byte → Flags) (ea : Word) (s : State) : Res Unit :=
  (memRead ea s).andThen fun m s1 =>
    (memWrite ea (f s1.cpu.flags.c m) s1).andThen fun _ s2 => .ok () (s2.setFlags (g s2.cpu.flags m))

end Sys2Proof.Machine
end

