-- ==== Sys2Proof/Machine/LoadStore.lean ====
section
/-! DEFINITION. Loads, stores and register transfers (41_load_store_transfer.md). Each meaning is the handler of
40_execution_addressing.md R205 step 6 inside `perform`. -/

namespace Sys2Proof.Machine

/-- `A <- M; SetZN(A)`. -/
def loadA (m : Byte) (s : State) : State := (s.setA m).setZN m

/-- `X <- M; SetZN(X)`. -/
def loadX (m : Byte) (s : State) : State := (s.setX m).setZN m

/-- `Y <- M; SetZN(Y)`. -/
def loadY (m : Byte) (s : State) : State := (s.setY m).setZN m

/-- LDA (R251). -/
def execLda (o : ReadOperand) (s : State) : Host.Outcome State Fault Refusal :=
  perform (.lda o) s (readingM o.toOperand loadA)

/-- LDX (R252). -/
def execLdx (o : LdxOperand) (s : State) : Host.Outcome State Fault Refusal :=
  perform (.ldx o) s (readingM o.toOperand loadX)

/-- LDY (R253). -/
def execLdy (o : LdyOperand) (s : State) : Host.Outcome State Fault Refusal :=
  perform (.ldy o) s (readingM o.toOperand loadY)

/-- STA (R254). -/
def execSta (o : StaOperand) (s : State) : Host.Outcome State Fault Refusal :=
  perform (.sta o) s (storing fun s' => s'.cpu.a)

/-- STX (R255). -/
def execStx (o : StxOperand) (s : State) : Host.Outcome State Fault Refusal :=
  perform (.stx o) s (storing fun s' => s'.cpu.x)

/-- STY (R256). -/
def execSty (o : StyOperand) (s : State) : Host.Outcome State Fault Refusal :=
  perform (.sty o) s (storing fun s' => s'.cpu.y)

/-- TAX (R257). -/
def execTax (s : State) : Host.Outcome State Fault Refusal :=
  perform .tax s (changing fun s' => loadX s'.cpu.a s')

/-- TAY (R258). -/
def execTay (s : State) : Host.Outcome State Fault Refusal :=
  perform .tay s (changing fun s' => loadY s'.cpu.a s')

/-- TXA (R259). -/
def execTxa (s : State) : Host.Outcome State Fault Refusal :=
  perform .txa s (changing fun s' => loadA s'.cpu.x s')

/-- TYA (R260). -/
def execTya (s : State) : Host.Outcome State Fault Refusal :=
  perform .tya s (changing fun s' => loadA s'.cpu.y s')

/-- TSX (R261). -/
def execTsx (s : State) : Host.Outcome State Fault Refusal :=
  perform .tsx s (changing fun s' => loadX s'.cpu.sp s')

/-- TXS (R262): no flag changes (R250). -/
def execTxs (s : State) : Host.Outcome State Fault Refusal :=
  perform .txs s (changing fun s' => s'.setSp s'.cpu.x)

end Sys2Proof.Machine
end

