-- ==== Sys2Proof/Machine/Arith.lean ====
section
/-! DEFINITION. Arithmetic, logic, compare and bit test (42_arith_logic_compare.md). -/

namespace Sys2Proof.Machine

/-- A takes the result of a sum or a difference, and the flags follow (R301, R302). -/
def applySum (sum : Byte → Byte → Bool → Sum) (m : Byte) (s : State) : State :=
  let r := sum s.cpu.a m s.cpu.flags.c
  (s.setA r.result).setFlags (s.cpu.flags.ofSum r)

/-- The flags of a compare of the given register (R307 to R309). -/
def applyCompare (reg : Cpu → Byte) (m : Byte) (s : State) : State :=
  s.setFlags (s.cpu.flags.compare (reg s.cpu) m)

/-- ADC (R301). The decimal flag has no effect (R300). -/
def execAdc (o : ReadOperand) (s : State) : Host.Outcome State Fault Refusal :=
  perform (.adc o) s (readingM o.toOperand (applySum addWithCarry))

/-- SBC (R302). The decimal flag has no effect (R300). -/
def execSbc (o : ReadOperand) (s : State) : Host.Outcome State Fault Refusal :=
  perform (.sbc o) s (readingM o.toOperand (applySum subWithBorrow))

/-- AND (R303). -/
def execAnd (o : ReadOperand) (s : State) : Host.Outcome State Fault Refusal :=
  perform (.and o) s (readingM o.toOperand fun m s' => loadA (s'.cpu.a &&& m) s')

/-- ORA (R304). -/
def execOra (o : ReadOperand) (s : State) : Host.Outcome State Fault Refusal :=
  perform (.ora o) s (readingM o.toOperand fun m s' => loadA (s'.cpu.a ||| m) s')

/-- EOR (R305). -/
def execEor (o : ReadOperand) (s : State) : Host.Outcome State Fault Refusal :=
  perform (.eor o) s (readingM o.toOperand fun m s' => loadA (s'.cpu.a ^^^ m) s')

/-- BIT (R306). -/
def execBit (o : BitOperand) (s : State) : Host.Outcome State Fault Refusal :=
  perform (.bit o) s (readingM o.toOperand fun m s' => s'.setFlags (s'.cpu.flags.bitTest s'.cpu.a m))

/-- CMP (R307). -/
def execCmp (o : ReadOperand) (s : State) : Host.Outcome State Fault Refusal :=
  perform (.cmp o) s (readingM o.toOperand (applyCompare Cpu.a))

/-- CPX (R308). -/
def execCpx (o : IndexOperand) (s : State) : Host.Outcome State Fault Refusal :=
  perform (.cpx o) s (readingM o.toOperand (applyCompare Cpu.x))

/-- CPY (R309). -/
def execCpy (o : IndexOperand) (s : State) : Host.Outcome State Fault Refusal :=
  perform (.cpy o) s (readingM o.toOperand (applyCompare Cpu.y))

end Sys2Proof.Machine
end

