-- ==== Sys2Proof/Machine/Control.lean ====
section
/-! DEFINITION. Branches, jumps and subroutines (44_control_flow.md). When a handler runs, the program counter is already at the
next instruction. -/

namespace Sys2Proof.Machine

/-- `TakeBranch(ea)` (R390): one cycle, one more when the target is in another page than the next instruction. -/
def takeBranch (ea : Word) (s : State) : State :=
  (s.addCycles (if pageDiffers s.cpu.pc ea then 2 else 1)).setPc ea

/-- A branch handler: take the branch when the condition on the flags holds (R390). -/
def branching (cond : Flags → Bool) (ea : Word) (s : State) : Res Unit :=
  .ok () (if cond s.cpu.flags then takeBranch ea s else s)

/-- BCC (R391). -/
def execBcc (off : Byte) (s : State) : Host.Outcome State Fault Refusal :=
  perform (.bcc off) s (branching fun f => !f.c)

/-- BCS (R392). -/
def execBcs (off : Byte) (s : State) : Host.Outcome State Fault Refusal :=
  perform (.bcs off) s (branching fun f => f.c)

/-- BEQ (R393). -/
def execBeq (off : Byte) (s : State) : Host.Outcome State Fault Refusal :=
  perform (.beq off) s (branching fun f => f.z)

/-- BMI (R394). -/
def execBmi (off : Byte) (s : State) : Host.Outcome State Fault Refusal :=
  perform (.bmi off) s (branching fun f => f.n)

/-- BNE (R395). -/
def execBne (off : Byte) (s : State) : Host.Outcome State Fault Refusal :=
  perform (.bne off) s (branching fun f => !f.z)

/-- BPL (R396). -/
def execBpl (off : Byte) (s : State) : Host.Outcome State Fault Refusal :=
  perform (.bpl off) s (branching fun f => !f.n)

/-- BVC (R397). -/
def execBvc (off : Byte) (s : State) : Host.Outcome State Fault Refusal :=
  perform (.bvc off) s (branching fun f => !f.v)

/-- BVS (R398). -/
def execBvs (off : Byte) (s : State) : Host.Outcome State Fault Refusal :=
  perform (.bvs off) s (branching fun f => f.v)

/-- JMP (R399). -/
def execJmp (o : JumpOperand) (s : State) : Host.Outcome State Fault Refusal :=
  perform (.jmp o) s fun ea s' => .ok () (s'.setPc ea)

/-- JSR (R400): the pushed word is the address of the instruction's last byte. -/
def execJsr (addr : Word) (s : State) : Host.Outcome State Fault Refusal :=
  perform (.jsr addr) s fun ea s' => .ok () ((s'.push16 (s'.cpu.pc - 1)).setPc ea)

/-- RTS (R401). -/
def execRts (s : State) : Host.Outcome State Fault Refusal :=
  perform .rts s (changing fun s' => s'.afterPull16.setPc (s'.pulledWord + 1))

end Sys2Proof.Machine
end

