-- ==== Sys2Proof/Machine/Shift.lean ====
section
/-! DEFINITION. Increments, decrements, shifts and rotates (43_incdec_shift.md). -/

namespace Sys2Proof.Machine

/-- A shift or rotate (R357 to R360): on A for the accumulator form, which makes no access, and read-modify-write otherwise. -/
def shifting (op : Bool → Byte → Shifted) (o : ShiftOperand) (ea : Word) (s : State) : Res Unit :=
  match o with
  | .accumulator =>
    let r := op s.cpu.flags.c s.cpu.a
    .ok () ((s.setA r.result).setFlags (s.cpu.flags.ofShift r))
  | _ => modifying (fun c m => (op c m).result) (fun f m => f.ofShift (op f.c m)) ea s

/-- INC (R351). -/
def execInc (o : ModifyOperand) (s : State) : Host.Outcome State Fault Refusal :=
  perform (.inc o) s (modifying (fun _ m => m + 1) fun f m => f.setZN (m + 1))

/-- DEC (R352). -/
def execDec (o : ModifyOperand) (s : State) : Host.Outcome State Fault Refusal :=
  perform (.dec o) s (modifying (fun _ m => m - 1) fun f m => f.setZN (m - 1))

/-- INX (R353). -/
def execInx (s : State) : Host.Outcome State Fault Refusal :=
  perform .inx s (changing fun s' => loadX (s'.cpu.x + 1) s')

/-- INY (R354). -/
def execIny (s : State) : Host.Outcome State Fault Refusal :=
  perform .iny s (changing fun s' => loadY (s'.cpu.y + 1) s')

/-- DEX (R355). -/
def execDex (s : State) : Host.Outcome State Fault Refusal :=
  perform .dex s (changing fun s' => loadX (s'.cpu.x - 1) s')

/-- DEY (R356). -/
def execDey (s : State) : Host.Outcome State Fault Refusal :=
  perform .dey s (changing fun s' => loadY (s'.cpu.y - 1) s')

/-- ASL (R357). -/
def execAsl (o : ShiftOperand) (s : State) : Host.Outcome State Fault Refusal :=
  perform (.asl o) s (shifting shiftLeft o)

/-- LSR (R358). -/
def execLsr (o : ShiftOperand) (s : State) : Host.Outcome State Fault Refusal :=
  perform (.lsr o) s (shifting shiftRight o)

/-- ROL (R359). -/
def execRol (o : ShiftOperand) (s : State) : Host.Outcome State Fault Refusal :=
  perform (.rol o) s (shifting rotateLeft o)

/-- ROR (R360). -/
def execRor (o : ShiftOperand) (s : State) : Host.Outcome State Fault Refusal :=
  perform (.ror o) s (shifting rotateRight o)

end Sys2Proof.Machine
end

