-- ==== Sys2Proof/Machine/System.lean ====
section
/-! DEFINITION. Stack, flag and system instructions (45_stack_flags_system.md). -/

namespace Sys2Proof.Machine

/-- A handler that only changes the flags. -/
def changingFlags (f : Flags → Flags) : Word → State → Res Unit :=
  changing fun s => s.setFlags (f s.cpu.flags)

/-- PHA (R430). -/
def execPha (s : State) : Host.Outcome State Fault Refusal :=
  perform .pha s (changing fun s' => s'.push s'.cpu.a)

/-- PHP (R431): bits 4 and 5 forced to 1 in the pushed copy. -/
def execPhp (s : State) : Host.Outcome State Fault Refusal :=
  perform .php s (changing fun s' => s'.push s'.cpu.flags.pushed)

/-- PLA (R432). -/
def execPla (s : State) : Host.Outcome State Fault Refusal :=
  perform .pla s (changing fun s' => loadA s'.pulledByte s'.afterPull)

/-- PLP (R433). -/
def execPlp (s : State) : Host.Outcome State Fault Refusal :=
  perform .plp s (changing fun s' => s'.afterPull.setFlags (Flags.pulled s'.pulledByte))

/-- CLC (R434). -/
def execClc (s : State) : Host.Outcome State Fault Refusal :=
  perform .clc s (changingFlags fun f => { f with c := false })

/-- CLD (R435). -/
def execCld (s : State) : Host.Outcome State Fault Refusal :=
  perform .cld s (changingFlags fun f => { f with d := false })

/-- CLI (R436). -/
def execCli (s : State) : Host.Outcome State Fault Refusal :=
  perform .cli s (changingFlags fun f => { f with i := false })

/-- CLV (R437). -/
def execClv (s : State) : Host.Outcome State Fault Refusal :=
  perform .clv s (changingFlags fun f => { f with v := false })

/-- SEC (R438). -/
def execSec (s : State) : Host.Outcome State Fault Refusal :=
  perform .sec s (changingFlags fun f => { f with c := true })

/-- SED (R439). -/
def execSed (s : State) : Host.Outcome State Fault Refusal :=
  perform .sed s (changingFlags fun f => { f with d := true })

/-- SEI (R440). -/
def execSei (s : State) : Host.Outcome State Fault Refusal :=
  perform .sei s (changingFlags fun f => { f with i := true })

/-- BRK (R441): the exception through 0xFFFE, whatever I holds, with the address of BRK + 2 saved. -/
def execBrk (s : State) : Host.Outcome State Fault Refusal :=
  perform .brk s (changing (takeException irqVector))

/-- RTI (R442). -/
def execRti (s : State) : Host.Outcome State Fault Refusal :=
  perform .rti s (changing returnFromException)

/-- NOP (R443). -/
def execNop (s : State) : Host.Outcome State Fault Refusal :=
  perform .nop s (changing id)

end Sys2Proof.Machine
end

