-- ==== Sys2Proof/Machine/Undocumented.lean ====
section
/-! DEFINITION. The undocumented opcodes (46_undocumented.md). Their labels are names only: R481 gives them all one behaviour. -/

namespace Sys2Proof.Machine

/-- R481: refused while `UNDOC_MODE = refuse`; otherwise a no-op that makes its mode's reads, advances by `UNDOC_SIZE` and charges
`UNDOC_CYCLES`. -/
def undocumented (i : Instr) (s : State) : Host.Outcome State Fault Refusal :=
  match s.cfg.undocMode with
  | .refuse => .refused (.undocumentedOpcode s.cpu.pc i.opcode)
  | .noop => perform i s (changing id)

/-- KIL, undocumented (R481, R482). -/
def execKil (op : Byte) (o : Operand) (s : State) : Host.Outcome State Fault Refusal :=
  undocumented (.kil op o) s

/-- NOP, undocumented (R481, R482). -/
def execNopUndoc (op : Byte) (o : Operand) (s : State) : Host.Outcome State Fault Refusal :=
  undocumented (.nopUndoc op o) s

/-- SLO, undocumented (R481, R482). -/
def execSlo (op : Byte) (o : Operand) (s : State) : Host.Outcome State Fault Refusal :=
  undocumented (.slo op o) s

/-- RLA, undocumented (R481, R482). -/
def execRla (op : Byte) (o : Operand) (s : State) : Host.Outcome State Fault Refusal :=
  undocumented (.rla op o) s

/-- SRE, undocumented (R481, R482). -/
def execSre (op : Byte) (o : Operand) (s : State) : Host.Outcome State Fault Refusal :=
  undocumented (.sre op o) s

/-- RRA, undocumented (R481, R482). -/
def execRra (op : Byte) (o : Operand) (s : State) : Host.Outcome State Fault Refusal :=
  undocumented (.rra op o) s

/-- DCP, undocumented (R481, R482). -/
def execDcp (op : Byte) (o : Operand) (s : State) : Host.Outcome State Fault Refusal :=
  undocumented (.dcp op o) s

/-- ISC, undocumented (R481, R482). -/
def execIsc (op : Byte) (o : Operand) (s : State) : Host.Outcome State Fault Refusal :=
  undocumented (.isc op o) s

/-- SAX, undocumented (R481, R482). -/
def execSax (op : Byte) (o : Operand) (s : State) : Host.Outcome State Fault Refusal :=
  undocumented (.sax op o) s

/-- LAX, undocumented (R481, R482). -/
def execLax (op : Byte) (o : Operand) (s : State) : Host.Outcome State Fault Refusal :=
  undocumented (.lax op o) s

/-- ANC, undocumented (R481, R482). -/
def execAnc (op : Byte) (o : Operand) (s : State) : Host.Outcome State Fault Refusal :=
  undocumented (.anc op o) s

/-- ALR, undocumented (R481, R482). -/
def execAlr (op : Byte) (o : Operand) (s : State) : Host.Outcome State Fault Refusal :=
  undocumented (.alr op o) s

/-- ARR, undocumented (R481, R482). -/
def execArr (op : Byte) (o : Operand) (s : State) : Host.Outcome State Fault Refusal :=
  undocumented (.arr op o) s

/-- XAA, undocumented (R481, R482). -/
def execXaa (op : Byte) (o : Operand) (s : State) : Host.Outcome State Fault Refusal :=
  undocumented (.xaa op o) s

/-- AXS, undocumented (R481, R482). -/
def execAxs (op : Byte) (o : Operand) (s : State) : Host.Outcome State Fault Refusal :=
  undocumented (.axs op o) s

/-- SBC, undocumented (R481, R482). -/
def execSbcUndoc (op : Byte) (o : Operand) (s : State) : Host.Outcome State Fault Refusal :=
  undocumented (.sbcUndoc op o) s

/-- AHX, undocumented (R481, R482). -/
def execAhx (op : Byte) (o : Operand) (s : State) : Host.Outcome State Fault Refusal :=
  undocumented (.ahx op o) s

/-- SHY, undocumented (R481, R482). -/
def execShy (op : Byte) (o : Operand) (s : State) : Host.Outcome State Fault Refusal :=
  undocumented (.shy op o) s

/-- SHX, undocumented (R481, R482). -/
def execShx (op : Byte) (o : Operand) (s : State) : Host.Outcome State Fault Refusal :=
  undocumented (.shx op o) s

/-- TAS, undocumented (R481, R482). -/
def execTas (op : Byte) (o : Operand) (s : State) : Host.Outcome State Fault Refusal :=
  undocumented (.tas op o) s

/-- LAS, undocumented (R481, R482). -/
def execLas (op : Byte) (o : Operand) (s : State) : Host.Outcome State Fault Refusal :=
  undocumented (.las op o) s

end Sys2Proof.Machine
end

