-- ==== Sys2Proof/Machine/Dispatch.lean ====
section
/-! DEFINITION. Which meaning each instruction has: step 6 of 40_execution_addressing.md R205, with the address resolution,
PC advance and base cycles of steps 4 and 5 inside each meaning. One arm per constructor of `Instr`. -/

namespace Sys2Proof.Machine

def exec (i : Instr) (s : State) : Host.Outcome State Fault Refusal :=
  match i with
  -- Loads, stores and transfers (41_load_store_transfer.md)
  | .lda o => Sys2Proof.Machine.execLda o s
  | .ldx o => Sys2Proof.Machine.execLdx o s
  | .ldy o => Sys2Proof.Machine.execLdy o s
  | .sta o => Sys2Proof.Machine.execSta o s
  | .stx o => Sys2Proof.Machine.execStx o s
  | .sty o => Sys2Proof.Machine.execSty o s
  | .tax => Sys2Proof.Machine.execTax s
  | .tay => Sys2Proof.Machine.execTay s
  | .txa => Sys2Proof.Machine.execTxa s
  | .tya => Sys2Proof.Machine.execTya s
  | .tsx => Sys2Proof.Machine.execTsx s
  | .txs => Sys2Proof.Machine.execTxs s
  -- Arithmetic, logic, compare and bit test (42_arith_logic_compare.md)
  | .adc o => Sys2Proof.Machine.execAdc o s
  | .sbc o => Sys2Proof.Machine.execSbc o s
  | .and o => Sys2Proof.Machine.execAnd o s
  | .ora o => Sys2Proof.Machine.execOra o s
  | .eor o => Sys2Proof.Machine.execEor o s
  | .bit o => Sys2Proof.Machine.execBit o s
  | .cmp o => Sys2Proof.Machine.execCmp o s
  | .cpx o => Sys2Proof.Machine.execCpx o s
  | .cpy o => Sys2Proof.Machine.execCpy o s
  -- Increment, decrement, shift and rotate (43_incdec_shift.md)
  | .inc o => Sys2Proof.Machine.execInc o s
  | .dec o => Sys2Proof.Machine.execDec o s
  | .inx => Sys2Proof.Machine.execInx s
  | .iny => Sys2Proof.Machine.execIny s
  | .dex => Sys2Proof.Machine.execDex s
  | .dey => Sys2Proof.Machine.execDey s
  | .asl o => Sys2Proof.Machine.execAsl o s
  | .lsr o => Sys2Proof.Machine.execLsr o s
  | .rol o => Sys2Proof.Machine.execRol o s
  | .ror o => Sys2Proof.Machine.execRor o s
  -- Branches, jumps and subroutines (44_control_flow.md)
  | .bcc off => Sys2Proof.Machine.execBcc off s
  | .bcs off => Sys2Proof.Machine.execBcs off s
  | .beq off => Sys2Proof.Machine.execBeq off s
  | .bmi off => Sys2Proof.Machine.execBmi off s
  | .bne off => Sys2Proof.Machine.execBne off s
  | .bpl off => Sys2Proof.Machine.execBpl off s
  | .bvc off => Sys2Proof.Machine.execBvc off s
  | .bvs off => Sys2Proof.Machine.execBvs off s
  | .jmp o => Sys2Proof.Machine.execJmp o s
  | .jsr addr => Sys2Proof.Machine.execJsr addr s
  | .rts => Sys2Proof.Machine.execRts s
  -- Stack, flags and system (45_stack_flags_system.md)
  | .pha => Sys2Proof.Machine.execPha s
  | .php => Sys2Proof.Machine.execPhp s
  | .pla => Sys2Proof.Machine.execPla s
  | .plp => Sys2Proof.Machine.execPlp s
  | .clc => Sys2Proof.Machine.execClc s
  | .cld => Sys2Proof.Machine.execCld s
  | .cli => Sys2Proof.Machine.execCli s
  | .clv => Sys2Proof.Machine.execClv s
  | .sec => Sys2Proof.Machine.execSec s
  | .sed => Sys2Proof.Machine.execSed s
  | .sei => Sys2Proof.Machine.execSei s
  | .brk => Sys2Proof.Machine.execBrk s
  | .rti => Sys2Proof.Machine.execRti s
  | .nop => Sys2Proof.Machine.execNop s
  -- Undocumented opcodes (46_undocumented.md)
  | .kil op o => Sys2Proof.Machine.execKil op o s
  | .nopUndoc op o => Sys2Proof.Machine.execNopUndoc op o s
  | .slo op o => Sys2Proof.Machine.execSlo op o s
  | .rla op o => Sys2Proof.Machine.execRla op o s
  | .sre op o => Sys2Proof.Machine.execSre op o s
  | .rra op o => Sys2Proof.Machine.execRra op o s
  | .dcp op o => Sys2Proof.Machine.execDcp op o s
  | .isc op o => Sys2Proof.Machine.execIsc op o s
  | .sax op o => Sys2Proof.Machine.execSax op o s
  | .lax op o => Sys2Proof.Machine.execLax op o s
  | .anc op o => Sys2Proof.Machine.execAnc op o s
  | .alr op o => Sys2Proof.Machine.execAlr op o s
  | .arr op o => Sys2Proof.Machine.execArr op o s
  | .xaa op o => Sys2Proof.Machine.execXaa op o s
  | .axs op o => Sys2Proof.Machine.execAxs op o s
  | .sbcUndoc op o => Sys2Proof.Machine.execSbcUndoc op o s
  | .ahx op o => Sys2Proof.Machine.execAhx op o s
  | .shy op o => Sys2Proof.Machine.execShy op o s
  | .shx op o => Sys2Proof.Machine.execShx op o s
  | .tas op o => Sys2Proof.Machine.execTas op o s
  | .las op o => Sys2Proof.Machine.execLas op o s

end Sys2Proof.Machine
end

