-- ==== Sys2Proof/Machine/Fetch.lean ====
section
/-! DEFINITION. Step 3 of the processor step (40_execution_addressing.md R205) and the operand bytes, and the placing of an
instruction where the next fetch finds it. -/

namespace Sys2Proof.Machine

/-- What a fetch gives. -/
inductive Fetched
  /-- The instruction at the program counter, and the state after the reads of its bytes. -/
  | instr (i : Instr) (s : State)
  | fault (f : Fault)
  | refused (r : Refusal)
  deriving Repr

/-- The operand bytes an instruction reads, low address first (R210 to R221, R223); unread positions are 0. -/
def operandBytes (op : Byte) (s : State) : Res (Byte × Byte) :=
  match (opRow op).readBytes with
  | 0 => .ok (0, 0) s
  | 1 => (memRead (s.cpu.pc + 1) s).andThen fun lo s1 => .ok (lo, 0) s1
  | _ =>
    (memRead (s.cpu.pc + 1) s).andThen fun lo s1 =>
      (memRead (s.cpu.pc + 2) s1).andThen fun hi s2 => .ok (lo, hi) s2

/-- The undocumented opcodes are refused at step 3 while `UNDOC_MODE = refuse` (R205, 46_undocumented.md R481). -/
def refusesOpcode (cfg : Config) (op : Byte) : Bool := !(opRow op).documented && cfg.undocMode == .refuse

/-- The state in which a faulting read of an operand byte is taken. The immediate byte is the handler's `M`, read after step 5
(R207, R217), so the advance of step 5 is already made; every other operand byte is read in step 4 (log 9). -/
def operandFaultState (op : Byte) (s : State) : State :=
  if (opRow op).mode = .immediate then advancePast op false s else s

/-- Step 3 and the operand reads, after the opcode byte has been read. -/
def fetchOperands (op : Byte) (s : State) : Fetched :=
  if refusesOpcode s.cfg op then .refused (.undocumentedOpcode s.cpu.pc op)
  else
    match operandBytes op s with
    | .ok (lo, hi) s' => .instr ((opRow op).build lo hi) s'
    | .fault e s' => .fault (faultOutcome e (some op) (operandFaultState op s'))

/-- The fetch at the program counter (R205 step 3). -/
def fetch (s : State) : Fetched :=
  match memRead s.cpu.pc s with
  | .ok op s' => fetchOperands op s'
  | .fault e s' => .fault (faultOutcome e none s')

/-! ### Placing an instruction (used by `State.withFetchWord`) -/

/-- The address is RAM, save RAM or program memory, which hold what is placed there. -/
def storable (a : Word) : Bool := decide (a.toNat < 0x2000) || decide (0x6000 ≤ a.toNat)

/-- Put a byte where a read of the address finds it: RAM, save RAM, or the PRG byte the current banks show. -/
def pokeByte (a : Word) (v : Byte) (s : State) : State :=
  if a.toNat < 0x2000 then s.writeRam a v
  else if 0x8000 ≤ a.toNat then { s with cart := { s.cart with prg := s.cart.prg.write (s.cart.prgAddr a.toNat) v } }
  else if 0x6000 ≤ a.toNat then { s with cart := { s.cart with sram := Sparse.write s.cart.sram (a.toNat - 0x6000) v } }
  else s

/-- Where an instruction is placed: at the program counter when its three bytes can be stored there, otherwise at 0x0200 (log 18). -/
def placementAddress (pc : Word) : Word :=
  if storable pc && storable (pc + 1) && storable (pc + 2) then pc else 0x0200#16

/-- The state whose next step fetches the three given bytes: stored at the placement address, with the machine not halted, not
stalled and with no interrupt latched, so that nothing runs before the fetch. -/
def placeInstruction (b0 b1 b2 : Byte) (s : State) : State :=
  let pc := placementAddress s.cpu.pc
  let ready := { s with
    cpu := { s.cpu with pc := pc, stall := 0, latch := .none }
    halted := false
    faultRecord := none }
  pokeByte (pc + 2) b2 (pokeByte (pc + 1) b1 (pokeByte pc b0 ready))

end Sys2Proof.Machine
end

