-- ==== Sys2Proof/Machine/Processor.lean ====
section
/-! DEFINITION. One processor step (40_execution_addressing.md R205). -/

namespace Sys2Proof.Machine

/-- Steps 3 to 6: fetch the instruction at the program counter and run its meaning. -/
def fetchAndExecute (s : State) : Host.Outcome State Fault Refusal :=
  match fetch s with
  | .instr i s' => exec i s'
  | .fault f => .fault f
  | .refused r => .refused r

/-- `CpuStep()` (R205): a stall step takes one cycle and leaves the counter alone; otherwise the latched interrupt is serviced and
the next instruction runs in the same step. -/
def cpuStep (s : State) : Host.Outcome State Fault Refusal :=
  if 0 < s.cpu.stall then .next { s with cpu := { s.cpu with stall := s.cpu.stall - 1 } }
  else fetchAndExecute (serviceInterrupt s)

/-- The cycles a completed processor step from `s` to `s'` returns (R205, R206): 1 for a stall step, otherwise all the cycles
charged, the 7 of an interrupt entry among them. -/
def stepCycles (s s' : State) : Nat := if 0 < s.cpu.stall then 1 else s'.cpu.cycles - s.cpu.cycles

end Sys2Proof.Machine
end

