-- ==== Sys2Proof/Machine/Step.lean ====
section
/-! DEFINITION. One system step (60_exceptions.md R500), and a state whose next step runs a given instruction. -/

namespace Sys2Proof.Machine

/-- `SystemStep()` (R500): nothing when halted (R521); otherwise a processor step of n cycles and then 3·n times a picture step
and a mapper step. A fault or a refusal of the processor step ends the step (00_scope.md R16). -/
def step (s : State) : Host.Outcome State Fault Refusal :=
  if s.halted then .next s
  else
    match cpuStep s with
    | .next s' => .next (runPicture (3 * stepCycles s s') s')
    | .fault f => .fault f
    | .refused r => .refused r

/-- `s` with the instruction of the bits `w` (byte k is bits 8k+7..8k, every bit from `nbits` on 0) stored where `step` fetches its
next instruction (log 6, log 18). -/
def State.withFetchWord (s : State) (nbits w : Nat) : State :=
  let bits := w % 2 ^ nbits
  placeInstruction (BitVec.ofNat 8 bits) (BitVec.ofNat 8 (bits / 0x100)) (BitVec.ofNat 8 (bits / 0x10000)) s

end Sys2Proof.Machine
end

