-- ==== Sys2Proof/Machine/Load.lean ====
section
/-! DEFINITION. Program load and reset (70_reset_and_hazards.md R720 to R726), the only way a machine comes into being. -/

namespace Sys2Proof.Machine

/-- The length `ZeroFill` gives: the next positive multiple of the unit (R726). -/
def zeroFillLength (len unit : Nat) : Nat := max 1 ((len + unit - 1) / unit) * unit

/-- A zero-filled array (R726): the added bytes are 0, which is what an unlisted byte reads as. -/
def Rom.ofBytes (bytes : List Byte) (unit : Nat) : Rom := ⟨zeroFillLength bytes.length unit, Memory.ofBytes bytes⟩

/-- The PRG bank unit of a variant (R726). -/
def prgUnit : Variant → Nat
  | .fixedChr => 0x4000
  | .shiftReg => 0x4000
  | .scanlineIrq => 0x2000

/-- SHIFT_REG after load (62_mappers.md R677). -/
def ShiftReg.loaded (control : BitVec 5) (prgLen chrLen : Nat) : ShiftReg :=
  ShiftReg.updateOffsets
    { shift := 0x10#5, control := control, chrBank0 := 0, chrBank1 := 0, prgBank := 0, prgOff := #v[0, 0], chrOff := #v[0, 0] }
    prgLen chrLen

/-- SCANLINE_IRQ after load (R699): offsets of their own, not `UpdateOffsets()` of the registers. -/
def ScanlineIrq.loaded (prgLen : Nat) : ScanlineIrq where
  bankSelect := 0
  prgMode := false
  chrMode := false
  regs := Vector.replicate 8 0
  prgOff := #v[bankOffset 0 0x2000 prgLen, bankOffset 1 0x2000 prgLen, bankOffset (-2) 0x2000 prgLen, bankOffset (-1) 0x2000 prgLen]
  chrOff := Vector.replicate 8 0
  irqLatch := 0
  irqCounter := 0
  irqEnable := false

/-- The variant's initial state (R663, R677, R699). -/
def Mapper.loaded (cfg : Config) (prgLen chrLen : Nat) : Variant → Mapper
  | .fixedChr => .fixedChr ⟨0⟩
  | .shiftReg => .shiftReg (ShiftReg.loaded cfg.mmc1InitialControl prgLen chrLen)
  | .scanlineIrq => .scanlineIrq (ScanlineIrq.loaded prgLen)

/-- The cartridge after load. -/
def Cartridge.loaded (cfg : Config) (variant : Variant) (prg chr : List Byte) : Cartridge :=
  let p := Rom.ofBytes prg (prgUnit variant)
  let c := Rom.ofBytes chr 0x2000
  { mapper := Mapper.loaded cfg p.len c.len variant, prg := p, chr := c, sram := [], mirror := cfg.initialMirror }

/-- The reset of a machine with the given cartridge (R720 to R722): the reset vector is read through the loaded mapper. -/
def State.resetWith (cfg : Config) (cart : Cartridge) : State :=
  State.initial cfg cart (readVector resetVector (State.initial cfg cart 0))

/-- `Load(prg, chr, selector)` (R726); an unknown selector is refused (62_mappers.md R657). -/
def State.load (cfg : Config) (prg chr : List Byte) (selector : Int) : Except Refusal State :=
  match cfg.mapperSelector.lookup selector with
  | none => .error (.unsupportedMapper selector)
  | some variant => .ok (State.resetWith cfg (Cartridge.loaded cfg variant prg chr))

end Sys2Proof.Machine
end

