-- ==== Sys2Proof/Safety.lean ====
section
/-! DEFINITION. The words the statements use: the invariant of a machine, the bytes of memory, the pure effective address of
every operand form, and when an access cannot fault. Nothing here is used by the machine itself. -/

namespace Sys2Proof.Machine

/-! ### The invariant -/

/-- The stored B is 0 and the stored U is 1 (10_state.md R37). -/
def Flags.Inv (f : Flags) : Prop := f.b = false ∧ f.u = true

/-- A sparse array in canonical form with every index below `n`. -/
def Sparse.Inv {w : Nat} (n : Nat) (m : Sparse w) : Prop := Sparse.wf m = true ∧ Sparse.below n m = true

/-- A held strobe keeps the read index at 0 (20_memory.md R140, R141). -/
def Controller.Inv (c : Controller) : Prop := c.strobe.getLsbD 0 = true → c.index = 0

/-- The picture unit: its raster position (10_state.md R60), its sprite count (R71), its NMI line as last computed (R69), and its
memories (R65, R66, R72). -/
structure Ppu.Inv (p : Ppu) : Prop where
  dot : p.dot ≤ 340
  scanline : p.scanline ≤ 261
  spriteCount : p.spriteCount ≤ 8
  nmiPrevious : p.nmiPrevious = p.nmiLine
  oam : Sparse.Inv 256 p.oam
  nt : Sparse.Inv 2048 p.nt
  pal : Sparse.Inv 32 p.pal
  front : Sparse.Inv 61440 p.front
  back : Sparse.Inv 61440 p.back

/-- The PRG bank unit of the variant in use (70_reset_and_hazards.md R726). -/
def Mapper.prgUnit : Mapper → Nat
  | .fixedChr _ => 0x4000
  | .shiftReg _ => 0x4000
  | .scanlineIrq _ => 0x2000

/-- The cartridge: array lengths are positive multiples of their units, and every banked access stays inside its array (R726). -/
structure Cartridge.Inv (c : Cartridge) : Prop where
  prgUnit : 0 < c.prg.len ∧ c.mapper.prgUnit ∣ c.prg.len
  chrUnit : 0 < c.chr.len ∧ 0x2000 ∣ c.chr.len
  prgInRange : ∀ a, 0x8000 ≤ a → a < 0x10000 → c.prgAddr a < c.prg.len
  chrInRange : ∀ a, a < 0x2000 → c.chrAddr a < c.chr.len
  prg : Sparse.Inv c.prg.len c.prg.cells
  chr : Sparse.Inv c.chr.len c.chr.cells
  sram : Sparse.Inv 0x2000 c.sram

/-- The invariant of the machine. -/
structure State.Inv (s : State) : Prop where
  flags : s.cpu.flags.Inv
  ram : Sparse.Inv 0x800 s.ram
  port1 : s.port1.Inv
  port2 : s.port2.Inv
  ppu : s.ppu.Inv
  cart : s.cart.Inv
  halted : s.halted = s.faultRecord.isSome

/-! ### Memory bytes -/

/-- The byte of plain memory at a processor address: RAM, save RAM, or the program byte the current banks show. Device registers
and unused addresses are no memory. A read of memory has no side effect (20_memory.md R103, R113). -/
def State.memoryByte (s : State) (a : Word) : Option Byte :=
  if a.toNat < 0x2000 then some (Sparse.read s.ram (ramIndex a))
  else if 0x8000 ≤ a.toNat then some (s.cart.prgRead a.toNat)
  else if 0x6000 ≤ a.toNat then some (Sparse.read s.cart.sram (a.toNat - 0x6000))
  else none

/-- The little-endian pointer in page zero, both of whose bytes lie in page zero (20_memory.md R111). -/
def State.zeroPagePointer (s : State) (zp : Byte) : Word :=
  wordOf (Sparse.read s.ram zp.toNat) (Sparse.read s.ram (zp + 1).toNat)

/-! ### Effective addresses without the bus -/

/-- The effective address of an operand (40_execution_addressing.md R209 to R221). `indirect` is the one mode whose pointer can
lie on a device register; here it stands for the pointer address itself. -/
def State.ea (s : State) : Operand → Word
  | .implied => 0
  | .accumulator => 0
  | .immediate _ => s.cpu.pc + 1
  | .unreadImmediate => s.cpu.pc + 1
  | .zeroPage zp => zp.setWidth 16
  | .zeroPageX zp => (zp + s.cpu.x).setWidth 16
  | .zeroPageY zp => (zp + s.cpu.y).setWidth 16
  | .indexedIndirect zp => s.zeroPagePointer (zp + s.cpu.x)
  | .indirectIndexed zp => s.zeroPagePointer zp + s.cpu.y.setWidth 16
  | .relative off => s.cpu.pc + 2 + off.signExtend 16
  | .absolute addr => addr
  | .absoluteX addr => addr + s.cpu.x.setWidth 16
  | .absoluteY addr => addr + s.cpu.y.setWidth 16
  | .indirect ptr => ptr

/-- `crossed` of R208: only absolute-X, absolute-Y and indirect-indexed, when bits 15:8 of the address differ from the base's. -/
def State.crosses (s : State) : Operand → Bool
  | .absoluteX addr => (addr + s.cpu.x.setWidth 16).extractLsb' 8 8 != addr.extractLsb' 8 8
  | .absoluteY addr => (addr + s.cpu.y.setWidth 16).extractLsb' 8 8 != addr.extractLsb' 8 8
  | .indirectIndexed zp =>
    (s.zeroPagePointer zp + s.cpu.y.setWidth 16).extractLsb' 8 8 != (s.zeroPagePointer zp).extractLsb' 8 8
  | _ => false

/-- The state in which the handler of an instruction runs (R205 step 5): the program counter past the instruction, base cycles and
page penalty charged, nothing else changed. -/
def State.advanced (s : State) (i : Instr) : State :=
  { s with
    cpu := { s.cpu with
      pc := s.cpu.pc + BitVec.ofNat 16 (opLength i.opcode)
      cycles := s.cpu.cycles + opBaseCycles i.opcode + (if s.crosses i.operand then (opRow i.opcode).pagePenalty else 0) } }

/-- The program counter and the cycle counter replaced: all that a branch, a jump or a no-op changes. -/
def State.withPcCycles (s : State) (pc : Word) (cycles : Nat) : State := { s with cpu := { s.cpu with pc := pc, cycles := cycles } }

/-! ### When an access cannot fault -/

/-- A read of the address does not reach an unmapped mapper address (20_memory.md R107, 62_mappers.md R652). -/
def State.mapped (s : State) (a : Word) : Prop :=
  s.cfg.expansionRouting = .zero ∨ a.toNat < 0x4020 ∨ 0x6000 ≤ a.toNat

/-- A write of `v` to the address reaches no unmapped mapper address, by itself or through the DMA reads it starts (20_memory.md
R105, R130): pages 0x40 to 0x5F hold such addresses. -/
def State.storable (s : State) (a : Word) (v : Byte) : Prop :=
  s.mapped a ∧ (a.toNat = 0x4014 → s.cfg.expansionRouting = .zero ∨ v.toNat < 0x40 ∨ 0x60 ≤ v.toNat)

/-- The operand read `M` (40_execution_addressing.md R207) cannot fault. An immediate operand byte has been read by the fetch. -/
def State.readable (s : State) : Operand → Prop
  | .immediate _ => True
  | o => s.mapped (s.ea o)

end Sys2Proof.Machine
end

