-- ==== Sys2Proof/Certificates/Slice0/Obligations.lean ====
section
/-! DEFINITION. The statements for the provers, and the few words they are written in (namespace `Sys2Proof.Claim`): the encodings
of the rules' Encodings lines as numbers, the state past an instruction, and the operand byte. -/

namespace Sys2Proof.Claim

open Sys2Proof.Machine

/-- One entry of a rule's Encodings line: opcode, length, base cycles, page penalty. -/
structure Layout where
  op : Byte
  length : Nat
  cycles : Nat
  penalty : Nat

/-- The opcode and the operand bytes, whatever follows them, decode to the instruction. -/
def Coded (i : Instr) (l : Layout) : Prop := ∀ rest, decode (l.op :: (i.operand.bytes ++ rest)) = .ok i

/-- The state past an instruction (40_execution_addressing.md R205 step 5), from the layout's numbers. -/
def past (s : State) (l : Layout) (o : Operand) : State :=
  { s with
    cpu := { s.cpu with
      pc := s.cpu.pc + BitVec.ofNat 16 l.length
      cycles := s.cpu.cycles + l.cycles + (if s.crosses o then l.penalty else 0) } }

/-- `M` is `m`, and `s1` is the state after reading it past the instruction (R207): the immediate byte, or the byte at `ea`. -/
def IsM (s : State) (l : Layout) (o : Operand) (m : Byte) (s1 : State) : Prop :=
  match o with
  | .immediate imm => m = imm ∧ s1 = past s l o
  | _ => memRead (s.ea o) (past s l o) = .ok m s1

/-- `SetZN(v)` (00_scope.md R14). -/
def zn (f : Flags) (v : Byte) : Flags := { f with z := decide (v = 0), n := v.getLsbD 7 }

/-- The eight-opcode layout of 42_arith_logic_compare.md R300, which LDA has as well (R251). -/
def eight (imm zp zpx abs absx absy indx indy : Byte) : ReadOperand → Layout
  | .immediate _ => ⟨imm, 2, 2, 0⟩
  | .zeroPage _ => ⟨zp, 2, 3, 0⟩
  | .zeroPageX _ => ⟨zpx, 2, 4, 0⟩
  | .absolute _ => ⟨abs, 3, 4, 0⟩
  | .absoluteX _ => ⟨absx, 3, 4, 1⟩
  | .absoluteY _ => ⟨absy, 3, 4, 1⟩
  | .indexedIndirect _ => ⟨indx, 2, 6, 0⟩
  | .indirectIndexed _ => ⟨indy, 2, 5, 1⟩

/-- The Encodings line of R252. -/
def ldxLayout : LdxOperand → Layout
  | .immediate _ => ⟨0xA2, 2, 2, 0⟩
  | .zeroPage _ => ⟨0xA6, 2, 3, 0⟩
  | .zeroPageY _ => ⟨0xB6, 2, 4, 0⟩
  | .absolute _ => ⟨0xAE, 3, 4, 0⟩
  | .absoluteY _ => ⟨0xBE, 3, 4, 1⟩

/-- The Encodings line of R253. -/
def ldyLayout : LdyOperand → Layout
  | .immediate _ => ⟨0xA0, 2, 2, 0⟩
  | .zeroPage _ => ⟨0xA4, 2, 3, 0⟩
  | .zeroPageX _ => ⟨0xB4, 2, 4, 0⟩
  | .absolute _ => ⟨0xAC, 3, 4, 0⟩
  | .absoluteX _ => ⟨0xBC, 3, 4, 1⟩

/-- The Encodings line of R254. -/
def staLayout : StaOperand → Layout
  | .zeroPage _ => ⟨0x85, 2, 3, 0⟩
  | .zeroPageX _ => ⟨0x95, 2, 4, 0⟩
  | .absolute _ => ⟨0x8D, 3, 4, 0⟩
  | .absoluteX _ => ⟨0x9D, 3, 5, 0⟩
  | .absoluteY _ => ⟨0x99, 3, 5, 0⟩
  | .indexedIndirect _ => ⟨0x81, 2, 6, 0⟩
  | .indirectIndexed _ => ⟨0x91, 2, 6, 0⟩

/-- The Encodings line of R255. -/
def stxLayout : StxOperand → Layout
  | .zeroPage _ => ⟨0x86, 2, 3, 0⟩
  | .zeroPageY _ => ⟨0x96, 2, 4, 0⟩
  | .absolute _ => ⟨0x8E, 3, 4, 0⟩

/-- The Encodings line of R256. -/
def styLayout : StyOperand → Layout
  | .zeroPage _ => ⟨0x84, 2, 3, 0⟩
  | .zeroPageX _ => ⟨0x94, 2, 4, 0⟩
  | .absolute _ => ⟨0x8C, 3, 4, 0⟩

/-- The Encodings line of R306. -/
def bitLayout : BitOperand → Layout
  | .zeroPage _ => ⟨0x24, 2, 3, 0⟩
  | .absolute _ => ⟨0x2C, 3, 4, 0⟩

/-- The Encodings lines of R308 and R309. -/
def indexLayout (imm zp abs : Byte) : IndexOperand → Layout
  | .immediate _ => ⟨imm, 2, 2, 0⟩
  | .zeroPage _ => ⟨zp, 2, 3, 0⟩
  | .absolute _ => ⟨abs, 3, 4, 0⟩

/-- The memory-form layout of 43_incdec_shift.md R350. -/
def modifyLayout (zp zpx abs absx : Byte) : ModifyOperand → Layout
  | .zeroPage _ => ⟨zp, 2, 5, 0⟩
  | .zeroPageX _ => ⟨zpx, 2, 6, 0⟩
  | .absolute _ => ⟨abs, 3, 6, 0⟩
  | .absoluteX _ => ⟨absx, 3, 7, 0⟩

/-- The Encodings lines of R357 to R360. -/
def shiftLayout (acc zp zpx abs absx : Byte) : ShiftOperand → Layout
  | .accumulator => ⟨acc, 1, 2, 0⟩
  | .zeroPage _ => ⟨zp, 2, 5, 0⟩
  | .zeroPageX _ => ⟨zpx, 2, 6, 0⟩
  | .absolute _ => ⟨abs, 3, 6, 0⟩
  | .absoluteX _ => ⟨absx, 3, 7, 0⟩

/-- A reading instruction ends in the state `f m s1`, where `m` is `M` and `s1` the state past it and after reading `M`. -/
def Reads (i : Instr) (l : Layout) (f : Byte → State → State) : Prop :=
  Coded i l ∧ ∀ s : State, s.readable i.operand → ∃ m s1, IsM s l i.operand m s1 ∧ exec i s = .next (f m s1)

/-- A store ends in the state after `MemWrite(ea, 1, v)` past the instruction; the registers and flags stay. -/
def Stores (i : Instr) (l : Layout) (v : Cpu → Byte) : Prop :=
  Coded i l ∧ ∀ s : State, s.storable (s.ea i.operand) (v s.cpu) →
    ∃ t n, memWrite (s.ea i.operand) (v s.cpu) (past s l i.operand) = .ok () t ∧ exec i s = .next t ∧
      t.cpu = { (past s l i.operand).cpu with stall := n }

/-- A read-modify-write: one read at `ea`, one write of `r c m` there, then the flags `g` of the flags after the write. -/
def Modifies (i : Instr) (l : Layout) (r : Bool → Byte → Byte) (g : Flags → Byte → Flags) : Prop :=
  ∀ s : State, s.mapped (s.ea i.operand) →
    ∃ m s1 s2, memRead (s.ea i.operand) (past s l i.operand) = .ok m s1 ∧
      memWrite (s.ea i.operand) (r s.cpu.flags.c m) s1 = .ok () s2 ∧
      exec i s = .next { s2 with cpu := { s2.cpu with flags := g s.cpu.flags m } }

/-- An implied instruction ends in the state `f` of the state past it. -/
def Implied (i : Instr) (l : Layout) (f : State → State) : Prop :=
  i.operand = .implied ∧ Coded i l ∧ ∀ s : State, exec i s = .next (f (past s l .implied))

/-- A branch: 2 bytes and 2 cycles; when the condition holds, the target, one cycle more, and one more on another page (R390).
-/
def Branches (i : Byte → Instr) (op : Byte) (cond : Flags → Bool) : Prop :=
  ∀ (off : Byte) (s : State), (i off).operand = .relative off ∧ Coded (i off) ⟨op, 2, 2, 0⟩ ∧
    exec (i off) s = .next
      (if cond s.cpu.flags = true then
        s.withPcCycles (s.cpu.pc + 2 + off.signExtend 16)
          (s.cpu.cycles + 2 + 1 +
            (if (s.cpu.pc + 2) &&& 0xFF00#16 = (s.cpu.pc + 2 + off.signExtend 16) &&& 0xFF00#16 then 0 else 1))
      else s.withPcCycles (s.cpu.pc + 2) (s.cpu.cycles + 2))

/-- The flags of a shift or rotate: C the bit out, Z and N of the result. -/
def shiftFlags (f : Flags) (r : Byte) (out : Bool) : Flags := { zn f r with c := out }

/-- A shift or rotate with result `r c m` and bit out `out m`: on A for the accumulator form, read-modify-write otherwise. -/
def Shifts (i : ShiftOperand → Instr) (l : ShiftOperand → Layout) (r : Bool → Byte → Byte) (out : Byte → Bool) : Prop :=
  (∀ o, (i o).operand = o.toOperand ∧ Coded (i o) (l o)) ∧
  (∀ s : State, exec (i .accumulator) s = .next
    { past s (l .accumulator) .accumulator with
      cpu := { (past s (l .accumulator) .accumulator).cpu with
        a := r s.cpu.flags.c s.cpu.a
        flags := shiftFlags s.cpu.flags (r s.cpu.flags.c s.cpu.a) (out s.cpu.a) } }) ∧
  ∀ o, o ≠ .accumulator → Modifies (i o) (l o) r (fun f m => shiftFlags f (r f.c m) (out m))

/-- The RAM index of the stack byte at a stack pointer (10_state.md R39). -/
def slot (sp : Byte) : Nat := 0x100 + sp.toNat

/-- RAM after pushing the return address and the status of an exception: high byte, low byte, status (60_exceptions.md R505). -/
def exceptionRam (ram : Memory) (sp : Byte) (ret : Word) (status : Byte) : Memory :=
  Sparse.write (Sparse.write (Sparse.write ram (slot sp) (ret.extractLsb' 8 8)) (slot (sp - 1)) (ret.extractLsb' 0 8))
    (slot (sp - 2)) status

/-- The mnemonics that store to the address of their operand. -/
def storers : List String :=
  ["STA", "STX", "STY", "INC", "DEC", "ASL", "LSR", "ROL", "ROR"]

/-- The mnemonics that push. -/
def pushers : List String := ["PHA", "PHP", "JSR", "BRK"]

/-- The instruction stores to the address of its operand: a store, or a memory form of a read-modify-write. -/
def storesToEa (i : Instr) : Prop := i.mnemonic ∈ storers ∧ i.operand ≠ .accumulator

end Sys2Proof.Claim

open Sys2Proof Sys2Proof.Machine Sys2Proof.Claim

/-! ### Encoding -/

/-- Every well-formed instruction, whatever bytes follow it, decodes from its encoding to itself, with every operand (R160,
R161). -/
def Obligations.DecodeOfEncodeIsTheInstruction : Prop :=
  ∀ (i : Instr) (rest : List Byte), i.wf = true → decode (encode i ++ rest) = .ok i

/-- The decoder reads only well-formed instructions: the first byte is the instruction's opcode and the operand bytes follow it.
-/
def Obligations.DecodedInstructionIsWellFormed : Prop :=
  ∀ (bs : List Byte) (i : Instr), decode bs = .ok i → i.wf = true ∧ ∃ rest, bs = i.opcode :: (i.operand.bytes ++ rest)

/-- Every opcode value decodes, to the instruction of the row's mnemonic and mode (R167, R171); 151 values are documented, 105
are not (R169, R170); and the page penalty is 1 exactly for ADC, AND, CMP, EOR, LDA, LDX, LDY, ORA and SBC in the modes
absolute-X, absolute-Y and indirect-indexed, LDX absolute-Y and LDY absolute-X among them (R208). -/
def Obligations.OpcodeMapIsTotalAndCounted : Prop :=
  (∀ op b1 b2 : Byte, ∃ i, decode [op, b1, b2] = .ok i ∧ i.opcode = op ∧ (opRow op).mnemonic = i.mnemonic ∧
     (opRow op).mode = i.operand.mode) ∧
  (opTable.filter (·.documented)).length = 151 ∧ (opTable.filter (!·.documented)).length = 105 ∧
  ∀ r ∈ opTable, r.pagePenalty =
    if r.mnemonic ∈ ["ADC", "AND", "CMP", "EOR", "LDA", "LDX", "LDY", "ORA", "SBC"] ∧
      r.mode ∈ [Mode.absoluteX, Mode.absoluteY, Mode.indirectIndexed] then 1 else 0

/-- Words written out from the Encodings lines of 41 to 46, one or more per family. -/
def Obligations.WrittenOutWordsDecode : Prop :=
  decode [0xA9, 0x42] = .ok (.lda (.immediate 0x42)) ∧ decode [0x96, 0xFF] = .ok (.stx (.zeroPageY 0xFF)) ∧
  decode [0x7D, 0xFF, 0x02] = .ok (.adc (.absoluteX 0x02FF)) ∧ decode [0xD1, 0x20] = .ok (.cmp (.indirectIndexed 0x20)) ∧
  decode [0x6A] = .ok (.ror .accumulator) ∧ decode [0xC6, 0x10] = .ok (.dec (.zeroPage 0x10)) ∧
  decode [0xD0, 0xFA] = .ok (.bne 0xFA) ∧ decode [0x6C, 0xFF, 0x02] = .ok (.jmp (.indirect 0x02FF)) ∧
  decode [0x00, 0xEA] = .ok .brk ∧ decode [0x28] = .ok .plp ∧ decode [0x04, 0x02] = .ok (.nopUndoc 0x04 (.zeroPage 0x02))

/-! ### Loads, stores, transfers -/

/-- LDA, LDX, LDY (R251, R252, R253): the register takes `M`, Z and N follow it, all else is as after reading `M`. -/
def Obligations.LoadsTakeTheOperand : Prop :=
  (∀ o, Reads (.lda o) (eight 0xA9 0xA5 0xB5 0xAD 0xBD 0xB9 0xA1 0xB1 o) fun m s1 =>
    { s1 with cpu := { s1.cpu with a := m, flags := zn s1.cpu.flags m } }) ∧
  (∀ o, Reads (.ldx o) (ldxLayout o) fun m s1 => { s1 with cpu := { s1.cpu with x := m, flags := zn s1.cpu.flags m } }) ∧
  (∀ o, Reads (.ldy o) (ldyLayout o) fun m s1 => { s1 with cpu := { s1.cpu with y := m, flags := zn s1.cpu.flags m } })

/-- STA, STX, STY (R254, R255, R256): one write of the register at `ea`, no read of it; no register or flag changes. -/
def Obligations.StoresWriteTheRegister : Prop :=
  (∀ o, Stores (.sta o) (staLayout o) Cpu.a) ∧ (∀ o, Stores (.stx o) (stxLayout o) Cpu.x) ∧
  (∀ o, Stores (.sty o) (styLayout o) Cpu.y)

/-- TAX, TAY, TXA, TYA, TSX set Z and N from what they move; TXS sets no flag (R257 to R262). INX, INY, DEX, DEY count modulo
256 and set Z and N (R353 to R356). -/
def Obligations.TransfersAndIndexCounts : Prop :=
  Implied .tax ⟨0xAA, 1, 2, 0⟩ (fun p => { p with cpu := { p.cpu with x := p.cpu.a, flags := zn p.cpu.flags p.cpu.a } }) ∧
  Implied .tay ⟨0xA8, 1, 2, 0⟩ (fun p => { p with cpu := { p.cpu with y := p.cpu.a, flags := zn p.cpu.flags p.cpu.a } }) ∧
  Implied .txa ⟨0x8A, 1, 2, 0⟩ (fun p => { p with cpu := { p.cpu with a := p.cpu.x, flags := zn p.cpu.flags p.cpu.x } }) ∧
  Implied .tya ⟨0x98, 1, 2, 0⟩ (fun p => { p with cpu := { p.cpu with a := p.cpu.y, flags := zn p.cpu.flags p.cpu.y } }) ∧
  Implied .tsx ⟨0xBA, 1, 2, 0⟩ (fun p => { p with cpu := { p.cpu with x := p.cpu.sp, flags := zn p.cpu.flags p.cpu.sp } }) ∧
  Implied .txs ⟨0x9A, 1, 2, 0⟩ (fun p => { p with cpu := { p.cpu with sp := p.cpu.x } }) ∧
  Implied .inx ⟨0xE8, 1, 2, 0⟩ (fun p => { p with cpu := { p.cpu with x := p.cpu.x + 1, flags := zn p.cpu.flags (p.cpu.x + 1) } }) ∧
  Implied .iny ⟨0xC8, 1, 2, 0⟩ (fun p => { p with cpu := { p.cpu with y := p.cpu.y + 1, flags := zn p.cpu.flags (p.cpu.y + 1) } }) ∧
  Implied .dex ⟨0xCA, 1, 2, 0⟩ (fun p => { p with cpu := { p.cpu with x := p.cpu.x - 1, flags := zn p.cpu.flags (p.cpu.x - 1) } }) ∧
  Implied .dey ⟨0x88, 1, 2, 0⟩ (fun p => { p with cpu := { p.cpu with y := p.cpu.y - 1, flags := zn p.cpu.flags (p.cpu.y - 1) } })

/-! ### Arithmetic, logic, compare -/

/-- ADC (R301): the sum modulo 256, C when it exceeds 255, V when A and M agree in sign and the result does not, Z and N of the
result; I and D unchanged, and D without effect. -/
def Obligations.AdcAddsWithCarry : Prop :=
  ∀ o, Reads (.adc o) (eight 0x69 0x65 0x75 0x6D 0x7D 0x79 0x61 0x71 o) fun m s1 =>
    let sum := s1.cpu.a.toNat + m.toNat + (if s1.cpu.flags.c then 1 else 0)
    let r := BitVec.ofNat 8 sum
    { s1 with cpu := { s1.cpu with
        a := r
        flags := { zn s1.cpu.flags r with
          c := decide (sum > 255)
          v := decide (s1.cpu.a.msb = m.msb ∧ r.msb ≠ s1.cpu.a.msb) } } }

/-- SBC (R302): the difference modulo 256, C when it is not negative, V when A and M differ in sign and the result's sign
differs from A's, Z and N of the result; and it is what ADC gives with `M ^ 0xFF` for M. -/
def Obligations.SbcSubtractsWithBorrow : Prop :=
  (∀ o, Reads (.sbc o) (eight 0xE9 0xE5 0xF5 0xED 0xFD 0xF9 0xE1 0xF1 o) fun m s1 =>
    let d : Int := (s1.cpu.a.toNat : Int) - m.toNat - (if s1.cpu.flags.c then 0 else 1)
    let r := BitVec.ofInt 8 d
    { s1 with cpu := { s1.cpu with
        a := r
        flags := { zn s1.cpu.flags r with
          c := decide (0 ≤ d)
          v := decide (s1.cpu.a.msb ≠ m.msb ∧ r.msb ≠ s1.cpu.a.msb) } } }) ∧
  ∀ (a m : Byte) (c : Bool), subWithBorrow a m c = addWithCarry a (m ^^^ 0xFF#8) c

/-- AND, ORA, EOR (R303, R304, R305). -/
def Obligations.LogicCombinesBits : Prop :=
  (∀ o, Reads (.and o) (eight 0x29 0x25 0x35 0x2D 0x3D 0x39 0x21 0x31 o) fun m s1 =>
    { s1 with cpu := { s1.cpu with a := s1.cpu.a &&& m, flags := zn s1.cpu.flags (s1.cpu.a &&& m) } }) ∧
  (∀ o, Reads (.ora o) (eight 0x09 0x05 0x15 0x0D 0x1D 0x19 0x01 0x11 o) fun m s1 =>
    { s1 with cpu := { s1.cpu with a := s1.cpu.a ||| m, flags := zn s1.cpu.flags (s1.cpu.a ||| m) } }) ∧
  (∀ o, Reads (.eor o) (eight 0x49 0x45 0x55 0x4D 0x5D 0x59 0x41 0x51 o) fun m s1 =>
    { s1 with cpu := { s1.cpu with a := s1.cpu.a ^^^ m, flags := zn s1.cpu.flags (s1.cpu.a ^^^ m) } })

/-- BIT (R306): Z from `A & M`, V and N from bits 6 and 7 of M; A, C, I and D unchanged. CMP, CPX, CPY (R307, R308, R309): C
when the register is not below M, Z when they are equal, N bit 7 of the difference; the register, V, I and D unchanged. -/
def Obligations.BitAndComparesSetFlags : Prop :=
  (∀ o, Reads (.bit o) (bitLayout o) fun m s1 =>
     { s1 with cpu := { s1.cpu with
         flags := { s1.cpu.flags with z := decide (s1.cpu.a &&& m = 0), v := m.getLsbD 6, n := m.getLsbD 7 } } }) ∧
  (∀ o, Reads (.cmp o) (eight 0xC9 0xC5 0xD5 0xCD 0xDD 0xD9 0xC1 0xD1 o) fun m s1 =>
    { s1 with cpu := { s1.cpu with
        flags := { s1.cpu.flags with c := decide (m ≤ s1.cpu.a), z := decide (s1.cpu.a = m), n := (s1.cpu.a - m).getLsbD 7 } } }) ∧
  (∀ o, Reads (.cpx o) (indexLayout 0xE0 0xE4 0xEC o) fun m s1 =>
    { s1 with cpu := { s1.cpu with
        flags := { s1.cpu.flags with c := decide (m ≤ s1.cpu.x), z := decide (s1.cpu.x = m), n := (s1.cpu.x - m).getLsbD 7 } } }) ∧
  (∀ o, Reads (.cpy o) (indexLayout 0xC0 0xC4 0xCC o) fun m s1 =>
    { s1 with cpu := { s1.cpu with
        flags := { s1.cpu.flags with c := decide (m ≤ s1.cpu.y), z := decide (s1.cpu.y = m), n := (s1.cpu.y - m).getLsbD 7 } } })

/-! ### Increment, decrement, shift, rotate -/

/-- INC and DEC (R351, R352): one read and one write at `ea`, Z and N of the new byte, C and V unchanged. -/
def Obligations.IncAndDecModifyMemory : Prop :=
  (∀ o, Coded (.inc o) (modifyLayout 0xE6 0xF6 0xEE 0xFE o) ∧
    Modifies (.inc o) (modifyLayout 0xE6 0xF6 0xEE 0xFE o) (fun _ m => m + 1) fun f m => zn f (m + 1)) ∧
  (∀ o, Coded (.dec o) (modifyLayout 0xC6 0xD6 0xCE 0xDE o) ∧
    Modifies (.dec o) (modifyLayout 0xC6 0xD6 0xCE 0xDE o) (fun _ m => m - 1) fun f m => zn f (m - 1))

/-- ASL, LSR, ROL, ROR (R357 to R360), the result and the bit out said as numbers: doubling, halving, and the old carry entering
at the empty end; A or memory, and V, I, D unchanged. -/
def Obligations.ShiftsAndRotates : Prop :=
  Shifts .asl (shiftLayout 0x0A 0x06 0x16 0x0E 0x1E) (fun _ m => BitVec.ofNat 8 (2 * m.toNat)) (fun m => m.getLsbD 7) ∧
  Shifts .lsr (shiftLayout 0x4A 0x46 0x56 0x4E 0x5E) (fun _ m => BitVec.ofNat 8 (m.toNat / 2)) (fun m => m.getLsbD 0) ∧
  Shifts .rol (shiftLayout 0x2A 0x26 0x36 0x2E 0x3E)
    (fun c m => BitVec.ofNat 8 (2 * m.toNat + (if c then 1 else 0))) (fun m => m.getLsbD 7) ∧
  Shifts .ror (shiftLayout 0x6A 0x66 0x76 0x6E 0x7E)
    (fun c m => BitVec.ofNat 8 (m.toNat / 2 + (if c then 128 else 0))) (fun m => m.getLsbD 0)

/-! ### Control flow -/

/-- The eight branches (R390 to R398). -/
def Obligations.BranchesTestOneFlag : Prop :=
  Branches .bcc 0x90 (fun f => !f.c) ∧ Branches .bcs 0xB0 (fun f => f.c) ∧ Branches .beq 0xF0 (fun f => f.z) ∧
  Branches .bmi 0x30 (fun f => f.n) ∧ Branches .bne 0xD0 (fun f => !f.z) ∧ Branches .bpl 0x10 (fun f => !f.n) ∧
  Branches .bvc 0x50 (fun f => !f.v) ∧ Branches .bvs 0x70 (fun f => f.v)

/-- JMP (R399): to the operand, or to the pointer read from it, whose high byte comes from the same page (R214). -/
def Obligations.JumpsGoToTheTarget : Prop :=
  (∀ (addr : Word) (s : State), Coded (.jmp (.absolute addr)) ⟨0x4C, 3, 3, 0⟩ ∧
    exec (.jmp (.absolute addr)) s = .next (s.withPcCycles addr (s.cpu.cycles + 3))) ∧
  ∀ (ptr : Word) (s : State), Coded (.jmp (.indirect ptr)) ⟨0x6C, 3, 5, 0⟩ ∧
    (s.mapped ptr → s.mapped ((ptr &&& 0xFF00#16) ||| ((ptr + 1) &&& 0x00FF#16)) →
      ∃ lo s1 hi s2, memRead ptr s = .ok lo s1 ∧ memRead ((ptr &&& 0xFF00#16) ||| ((ptr + 1) &&& 0x00FF#16)) s1 = .ok hi s2 ∧
        exec (.jmp (.indirect ptr)) s = .next (s2.withPcCycles (hi ++ lo) (s.cpu.cycles + 5)))

/-- JSR pushes the address of its last byte, high byte first, and jumps (R400); RTS pulls it and adds one (R401). -/
def Obligations.SubroutineCallAndReturn : Prop :=
  (∀ (addr : Word) (s : State), Coded (.jsr addr) ⟨0x20, 3, 6, 0⟩ ∧
    exec (.jsr addr) s = .next
      { s with
        ram := Sparse.write (Sparse.write s.ram (slot s.cpu.sp) ((s.cpu.pc + 2).extractLsb' 8 8)) (slot (s.cpu.sp - 1))
          ((s.cpu.pc + 2).extractLsb' 0 8)
        cpu := { s.cpu with sp := s.cpu.sp - 2, pc := addr, cycles := s.cpu.cycles + 6 } }) ∧
  ∀ s : State, Coded .rts ⟨0x60, 1, 6, 0⟩ ∧
    exec .rts s = .next
      { s with
        cpu := { s.cpu with
          sp := s.cpu.sp + 2
          pc := (Sparse.read s.ram (slot (s.cpu.sp + 2)) ++ Sparse.read s.ram (slot (s.cpu.sp + 1))) + 1
          cycles := s.cpu.cycles + 6 } }

/-! ### Stack, flags, system -/

/-- PHA, PHP, PLA, PLP (R430 to R433). -/
def Obligations.PushesAndPulls : Prop :=
  Implied .pha ⟨0x48, 1, 3, 0⟩ (fun p =>
    { p with ram := Sparse.write p.ram (slot p.cpu.sp) p.cpu.a, cpu := { p.cpu with sp := p.cpu.sp - 1 } }) ∧
  Implied .php ⟨0x08, 1, 3, 0⟩ (fun p =>
    { p with
      ram := Sparse.write p.ram (slot p.cpu.sp) (p.cpu.flags.pack ||| 0x30#8)
      cpu := { p.cpu with sp := p.cpu.sp - 1 } }) ∧
  Implied .pla ⟨0x68, 1, 4, 0⟩ (fun p =>
    let b := Sparse.read p.ram (slot (p.cpu.sp + 1))
    { p with cpu := { p.cpu with sp := p.cpu.sp + 1, a := b, flags := zn p.cpu.flags b } }) ∧
  Implied .plp ⟨0x28, 1, 4, 0⟩ (fun p =>
    let b := Sparse.read p.ram (slot (p.cpu.sp + 1))
    { p with cpu := { p.cpu with sp := p.cpu.sp + 1, flags :=
        { c := b.getLsbD 0, z := b.getLsbD 1, i := b.getLsbD 2, d := b.getLsbD 3, b := false, u := true,
          v := b.getLsbD 6, n := b.getLsbD 7 } } })

/-- The status byte packs the flags losslessly in R37's order. The stack primitives (R39, R40): a push writes page 1 and
decrements after, a pull increments before, 16-bit values go high byte first, and both wrap inside page 1. -/
def Obligations.StatusByteAndStack : Prop :=
  ((∀ f : Flags, f.pack.toNat = f.c.toNat + 2 * f.z.toNat + 4 * f.i.toNat + 8 * f.d.toNat + 16 * f.b.toNat +
     32 * f.u.toNat + 64 * f.v.toNat + 128 * f.n.toNat) ∧
   (∀ f : Flags, Flags.unpack f.pack = f) ∧ ∀ p : Byte, (Flags.unpack p).pack = p) ∧
  (∀ (s : State) (v : Byte) (w : Word),
     s.push v = { s with ram := Sparse.write s.ram (slot s.cpu.sp) v, cpu := { s.cpu with sp := s.cpu.sp - 1 } } ∧
     s.push16 w = (s.push (w.extractLsb' 8 8)).push (w.extractLsb' 0 8) ∧
     s.pulledByte = Sparse.read s.ram (slot (s.cpu.sp + 1)) ∧
     s.afterPull = { s with cpu := { s.cpu with sp := s.cpu.sp + 1 } } ∧
     s.pulledWord = s.afterPull.pulledByte ++ s.pulledByte ∧ s.afterPull16 = s.afterPull.afterPull ∧
     (Sparse.wf s.ram = true → (s.push v).pulledByte = v ∧ (s.push16 w).pulledWord = w) ∧
     0x100 ≤ slot s.cpu.sp ∧ slot s.cpu.sp ≤ 0x1FF)

/-- CLC, CLD, CLI, CLV, SEC, SED, SEI write their one flag and nothing else (R434 to R440); NOP does nothing (R443). -/
def Obligations.FlagInstructionsAndNop : Prop :=
  Implied .clc ⟨0x18, 1, 2, 0⟩ (fun p => { p with cpu := { p.cpu with flags := { p.cpu.flags with c := false } } }) ∧
  Implied .cld ⟨0xD8, 1, 2, 0⟩ (fun p => { p with cpu := { p.cpu with flags := { p.cpu.flags with d := false } } }) ∧
  Implied .cli ⟨0x58, 1, 2, 0⟩ (fun p => { p with cpu := { p.cpu with flags := { p.cpu.flags with i := false } } }) ∧
  Implied .clv ⟨0xB8, 1, 2, 0⟩ (fun p => { p with cpu := { p.cpu with flags := { p.cpu.flags with v := false } } }) ∧
  Implied .sec ⟨0x38, 1, 2, 0⟩ (fun p => { p with cpu := { p.cpu with flags := { p.cpu.flags with c := true } } }) ∧
  Implied .sed ⟨0xF8, 1, 2, 0⟩ (fun p => { p with cpu := { p.cpu with flags := { p.cpu.flags with d := true } } }) ∧
  Implied .sei ⟨0x78, 1, 2, 0⟩ (fun p => { p with cpu := { p.cpu with flags := { p.cpu.flags with i := true } } }) ∧
  Implied .nop ⟨0xEA, 1, 2, 0⟩ id

/-- BRK (R441): the address of BRK + 2 and `P | 0x30` pushed, I set, the program counter from 0xFFFE, in 7 cycles, whatever I
and the latch hold. -/
def Obligations.BrkTakesTheException : Prop :=
  (∀ pad rest, decode (0x00 :: pad :: rest) = .ok .brk) ∧
  ∀ s : State, ∃ target, memRead16 0xFFFE s = .ok target s ∧
    exec .brk s = .next
      { s with
        ram := exceptionRam s.ram s.cpu.sp (s.cpu.pc + 2) (s.cpu.flags.pack ||| 0x30#8)
        cpu := { s.cpu with
          sp := s.cpu.sp - 3, flags := { s.cpu.flags with i := true }, pc := target, cycles := s.cpu.cycles + 7 } }

/-- RTI (R442): the flags from the pulled byte, B cleared and U set, then the program counter, low byte first. -/
def Obligations.RtiReturnsFromException : Prop :=
  Coded .rti ⟨0x40, 1, 6, 0⟩ ∧
  ∀ s : State, exec .rti s = .next
    { s with
      cpu := { s.cpu with
        sp := s.cpu.sp + 3
        pc := Sparse.read s.ram (slot (s.cpu.sp + 3)) ++ Sparse.read s.ram (slot (s.cpu.sp + 2))
        cycles := s.cpu.cycles + 6
        flags :=
          let b := Sparse.read s.ram (slot (s.cpu.sp + 1))
          { c := b.getLsbD 0, z := b.getLsbD 1, i := b.getLsbD 2, d := b.getLsbD 3, b := false, u := true,
            v := b.getLsbD 6, n := b.getLsbD 7 } } }

/-- RTI inverts the entry of every exception (R508): program counter, stack pointer and flags come back, I among them. -/
def Obligations.RtiInvertsExceptionEntry : Prop :=
  ∀ (vec : Word) (s : State), Sparse.wf s.ram = true → s.cpu.flags.Inv →
    ∃ t, exec .rti (takeException vec s) = .next t ∧ t.cpu.pc = s.cpu.pc ∧ t.cpu.sp = s.cpu.sp ∧ t.cpu.flags = s.cpu.flags

/-! ### Undocumented opcodes -/

/-- R481 with `UNDOC_MODE = noop`, for every label of R482: only the program counter, by `UNDOC_SIZE`, and the cycle counter, by
`UNDOC_CYCLES`, change. `UNDOC_SIZE` and `UNDOC_CYCLES` are free values; R160 and R200 bound them. -/
def Obligations.UndocumentedOpcodesAreNoOps : Prop :=
  ∀ (op : Byte) (o : Operand) (s : State), s.cfg.undocMode = .noop →
    ∀ i ∈ [Instr.kil op o, .nopUndoc op o, .slo op o, .rla op o, .sre op o, .rra op o, .dcp op o, .isc op o, .sax op o,
      .lax op o, .anc op o, .alr op o, .arr op o, .xaa op o, .axs op o, .sbcUndoc op o, .ahx op o, .shy op o, .shx op o,
      .tas op o, .las op o], i.wf = true →
    exec i s = .next (s.withPcCycles (s.cpu.pc + BitVec.ofNat 16 ((Config.undocSizeLessOne op).val + 1))
      (s.cpu.cycles + (Config.undocCyclesLessOne op + 1)))

/-- R481 with `UNDOC_MODE = refuse`: the refusal names the opcode and its address, before any operand is read; a step refuses
so, whatever interrupt its step 2 would take, and no state results (R523). -/
def Obligations.UndocumentedOpcodesAreRefused : Prop :=
  (∀ (op : Byte) (o : Operand) (s : State), s.cfg.undocMode = .refuse →
    ∀ i ∈ [Instr.kil op o, .nopUndoc op o, .slo op o, .rla op o, .sre op o, .rra op o, .dcp op o, .isc op o, .sax op o,
      .lax op o, .anc op o, .alr op o, .arr op o, .xaa op o, .axs op o, .sbcUndoc op o, .ahx op o, .shy op o, .shx op o,
      .tas op o, .las op o], exec i s = .refused (.undocumentedOpcode s.cpu.pc op)) ∧
  ∀ (op : Byte) (s s1 : State), s.halted = false → s.cpu.stall = 0 → s.cfg.undocMode = .refuse →
    memRead (serviceInterrupt s).cpu.pc (serviceInterrupt s) = .ok op s1 → (opRow op).documented = false →
    step s = .refused (.undocumentedOpcode (serviceInterrupt s).cpu.pc op)

/-! ### The step, interrupts, faults -/

/-- A step runs the instruction that the bytes at the program counter decode to (R205), after the interrupt service of step 2,
and then three picture and mapper steps per cycle it took (R500). The bytes are read through the bus, the operand bytes after
the opcode (R223); `operandBytes` gives 0 for a byte the instruction does not read. And where no interrupt is pending and the
instruction's bytes lie in memory, without side effects: the step is the meaning on the state itself, then the picture and
mapper steps. -/
def Obligations.StepRunsTheInstruction : Prop :=
  (∀ (s s1 s2 : State) (op lo hi : Byte) (i : Instr), s.halted = false → s.cpu.stall = 0 →
     memRead (serviceInterrupt s).cpu.pc (serviceInterrupt s) = .ok op s1 → refusesOpcode s.cfg op = false →
     operandBytes op s1 = .ok (lo, hi) s2 → decode [op, lo, hi] = .ok i →
     step s =
       match exec i s2 with
       | .next t => .next (runPicture (3 * (t.cpu.cycles - s.cpu.cycles)) t)
       | .fault f => .fault f
       | .refused r => .refused r) ∧
  (∀ (s : State) (b0 b1 b2 : Byte) (i : Instr), s.halted = false → s.cpu.stall = 0 → pendingVector s = none →
     s.memoryByte s.cpu.pc = some b0 → s.memoryByte (s.cpu.pc + 1) = some b1 → s.memoryByte (s.cpu.pc + 2) = some b2 →
     refusesOpcode s.cfg b0 = false → decode [b0, b1, b2] = .ok i →
     step s =
       match exec i s with
       | .next t => .next (runPicture (3 * (t.cpu.cycles - s.cpu.cycles)) t)
       | .fault f => .fault f
       | .refused r => .refused r)

/-- A stall step (R205 step 1) takes one from the stall counter and runs three picture and mapper steps; the cycle counter and
the latch wait (R506). A halted machine's step changes nothing (R521). -/
def Obligations.StallAndHaltedSteps : Prop :=
  (∀ s : State, s.halted = false → 0 < s.cpu.stall →
    step s = .next (runPicture 3 { s with cpu := { s.cpu with stall := s.cpu.stall - 1 } })) ∧
  ∀ s : State, s.halted = true → step s = .next s

/-- The interrupt service (R505, R507): NMI through 0xFFFA; IRQ through 0xFFFE, at once or while I = 0 as `IRQ_MASK_AT` says;
only the three stack bytes, SP, I, the program counter, the counter (7) and the latch change; otherwise nothing does. The
instruction at the new program counter runs in the same step. -/
def Obligations.InterruptServiceEntersHandler : Prop :=
  ∀ s : State,
    let entered (vec target : Word) : Prop :=
      memRead16 vec s = .ok target s ∧
      serviceInterrupt s =
        { s with
          ram := exceptionRam s.ram s.cpu.sp s.cpu.pc (s.cpu.flags.pack ||| 0x30#8)
          cpu := { s.cpu with
            sp := s.cpu.sp - 3, flags := { s.cpu.flags with i := true }, pc := target, cycles := s.cpu.cycles + 7,
            latch := .none } }
    (s.cpu.latch = .nmi → ∃ target, entered 0xFFFA target) ∧
    (s.cpu.latch = .irq → s.cfg.irqMaskAt = .request ∨ s.cpu.flags.i = false → ∃ target, entered 0xFFFE target) ∧
    (s.cpu.latch = .irq → s.cfg.irqMaskAt = .service → s.cpu.flags.i = true → serviceInterrupt s = s) ∧
    (s.cpu.latch = .none → serviceInterrupt s = s) ∧
    (s.cpu.stall = 0 → cpuStep s = fetchAndExecute (serviceInterrupt s))

/-- The requests (R503, R504): an NMI replaces whatever is latched; an IRQ never replaces an NMI, and with masking at the
request it is dropped while I = 1. Nothing but the latch changes. -/
def Obligations.InterruptRequestsSetTheLatch : Prop :=
  ∀ s : State,
    requestNmi s = { s with cpu := { s.cpu with latch := .nmi } } ∧
    (s.cpu.latch = .nmi → requestIrq s = s) ∧
    (s.cpu.latch ≠ .nmi → s.cfg.irqMaskAt = .request → s.cpu.flags.i = true → requestIrq s = s) ∧
    (s.cpu.latch ≠ .nmi → s.cfg.irqMaskAt = .service ∨ s.cpu.flags.i = false →
      requestIrq s = { s with cpu := { s.cpu with latch := .irq } })

/-- Every fault a step ends in is F1 (R520), of an access in 0x4020 to 0x5FFF with `EXPANSION_ROUTING = mapper` (R107, R652);
the state it leaves is halted with that record kept, and no later step changes it (R521). -/
def Obligations.EveryFaultIsMapperUnmapped : Prop :=
  ∀ (s : State) (f : Fault), step s = .fault f →
    ∃ r after, f = .mapperUnmapped r after ∧ r.code = .mapperUnmapped ∧ r.component = .mapper ∧
      0x4020 ≤ r.address.toNat ∧ r.address.toNat < 0x6000 ∧ s.cfg.expansionRouting = .mapper ∧
      after.halted = true ∧ after.faultRecord = some r ∧ step after = .next after

/-- Where a load's or a store's address is unmapped, the instruction ends in F1 at the access: the program counter and the
counter are past the instruction, the faulting access has no effect, and the record names the address, the opcode and the access
(R520, R521, R652). -/
def Obligations.UnmappedAccessFaults : Prop :=
  (∀ (o : ReadOperand) (s : State), (∀ imm, o ≠ .immediate imm) → ¬ s.mapped (s.ea o.toOperand) →
    let l := eight 0xA9 0xA5 0xB5 0xAD 0xBD 0xB9 0xA1 0xB1 o
    let r : FaultRecord := ⟨.mapperUnmapped, s.ea o.toOperand, some l.op, .mapper, .read⟩
    exec (.lda o) s = .fault (.mapperUnmapped r { past s l o.toOperand with halted := true, faultRecord := some r })) ∧
  ∀ (o : StaOperand) (s : State), ¬ s.mapped (s.ea o.toOperand) →
    let l := staLayout o
    let r : FaultRecord := ⟨.mapperUnmapped, s.ea o.toOperand, some l.op, .mapper, .write⟩
    exec (.sta o) s = .fault (.mapperUnmapped r { past s l o.toOperand with halted := true, faultRecord := some r })

/-! ### Whole-machine rules -/

/-- No instruction changes the interrupt latch (R444), a program byte (R109), the raster or a frame buffer (R153), the fault
state or a parameter; every completed instruction takes a positive number of cycles (R200); and the stall counter grows only by
a store to 0x4014, by 513 or 514 (R42, R130). -/
def Obligations.NoInstructionTouchesLatchOrProgram : Prop :=
  ∀ (i : Instr) (s t : State), exec i s = .next t →
    t.cpu.latch = s.cpu.latch ∧ t.cart.prg = s.cart.prg ∧ t.ppu.dot = s.ppu.dot ∧ t.ppu.scanline = s.ppu.scanline ∧
    t.ppu.frame = s.ppu.frame ∧ t.ppu.f = s.ppu.f ∧ t.ppu.front = s.ppu.front ∧ t.ppu.back = s.ppu.back ∧
    t.halted = s.halted ∧ t.faultRecord = s.faultRecord ∧ t.cfg = s.cfg ∧ s.cpu.cycles < t.cpu.cycles ∧
    (t.cpu.stall = s.cpu.stall ∨
      (storesToEa i ∧ s.ea i.operand = 0x4014#16 ∧ (t.cpu.stall = s.cpu.stall + 513 ∨ t.cpu.stall = s.cpu.stall + 514)))

/-- Which instructions write A, X, Y and SP (R31 to R34), and which write each flag (R38). -/
def Obligations.OnlyListedInstructionsWriteRegistersAndFlags : Prop :=
  (∀ (i : Instr) (s t : State), exec i s = .next t →
     (t.cpu.a = s.cpu.a ∨ i.mnemonic ∈ ["LDA", "PLA", "TXA", "TYA", "ADC", "SBC", "AND", "ORA", "EOR"] ∨
       (i.mnemonic ∈ ["ASL", "LSR", "ROL", "ROR"] ∧ i.operand = .accumulator)) ∧
     (t.cpu.x = s.cpu.x ∨ i.mnemonic ∈ ["LDX", "TAX", "TSX", "INX", "DEX"]) ∧
     (t.cpu.y = s.cpu.y ∨ i.mnemonic ∈ ["LDY", "TAY", "INY", "DEY"]) ∧
     (t.cpu.sp = s.cpu.sp ∨ i.mnemonic ∈ ["TXS", "PHA", "PHP", "PLA", "PLP", "JSR", "RTS", "BRK", "RTI"])) ∧
  (∀ (i : Instr) (s t : State), exec i s = .next t →
     let zn := ["LDA", "LDX", "LDY", "TAX", "TAY", "TXA", "TYA", "TSX", "PLA", "ADC", "SBC", "AND", "ORA", "EOR", "BIT", "CMP",
       "CPX", "CPY", "INC", "DEC", "INX", "INY", "DEX", "DEY", "ASL", "LSR", "ROL", "ROR", "PLP", "RTI"]
     (t.cpu.flags.c = s.cpu.flags.c ∨ i.mnemonic ∈
       ["ADC", "SBC", "CMP", "CPX", "CPY", "ASL", "LSR", "ROL", "ROR", "CLC", "SEC", "PLP", "RTI"]) ∧
     (t.cpu.flags.z = s.cpu.flags.z ∨ i.mnemonic ∈ zn) ∧ (t.cpu.flags.n = s.cpu.flags.n ∨ i.mnemonic ∈ zn) ∧
     (t.cpu.flags.i = s.cpu.flags.i ∨ i.mnemonic ∈ ["SEI", "CLI", "PLP", "RTI", "BRK"]) ∧
     (t.cpu.flags.d = s.cpu.flags.d ∨ i.mnemonic ∈ ["SED", "CLD", "PLP", "RTI"]) ∧
     (t.cpu.flags.v = s.cpu.flags.v ∨ i.mnemonic ∈ ["ADC", "SBC", "BIT", "CLV", "PLP", "RTI"]) ∧
     ((t.cpu.flags.b = s.cpu.flags.b ∧ t.cpu.flags.u = s.cpu.flags.u) ∨ i.mnemonic ∈ ["PLP", "RTI"]))

/-- An instruction that stores nothing and pushes nothing leaves every byte of memory as it was: RAM, save RAM, program,
pattern, sprite, nametable and palette memory, and the cartridge's registers with them. A push, a JSR or a BRK leaves every byte
of memory but its stack slots: one for PHA and PHP, two for JSR, three for BRK; and the cartridge and the picture unit whole. -/
def Obligations.InstructionsWithoutStoreLeaveMemory : Prop :=
  (∀ (i : Instr) (s t : State), ¬ storesToEa i → i.mnemonic ∉ pushers → exec i s = .next t →
     (∀ a : Word, t.memoryByte a = s.memoryByte a) ∧ t.ram = s.ram ∧ t.cart = s.cart ∧ t.ppu.oam = s.ppu.oam ∧
     t.ppu.oamAddr = s.ppu.oamAddr ∧ t.ppu.nt = s.ppu.nt ∧ t.ppu.pal = s.ppu.pal) ∧
  (∀ (i : Instr) (s t : State), i.mnemonic ∈ pushers → exec i s = .next t →
     t.ppu = s.ppu ∧ t.cart = s.cart ∧ t.port1 = s.port1 ∧ t.port2 = s.port2 ∧
     ∀ a : Word, (a.toNat < 0x2000 → ramIndex a ≠ slot s.cpu.sp ∧
         (i.mnemonic ∈ ["JSR", "BRK"] → ramIndex a ≠ slot (s.cpu.sp - 1)) ∧
         (i.mnemonic = "BRK" → ramIndex a ≠ slot (s.cpu.sp - 2))) →
       t.memoryByte a = s.memoryByte a)

/-- A store to RAM or save RAM changes that byte alone (in every RAM mirror of it), and no other memory or unit. A store to a
device or a mapper register leaves RAM, save RAM and program bytes as they were; outside the picture registers and the DMA it
leaves the picture unit; a controller port changes by its own address, and by the reads of a DMA, which leave its strobe; the stall
counter changes by the DMA alone; the banks and the mirroring change from 0x8000 on alone, pattern bytes below 0x4000 alone. -/
def Obligations.StoresLeaveOtherMemory : Prop :=
  (∀ (i : Instr) (s t : State), storesToEa i → exec i s = .next t → ∀ ea, ea = s.ea i.operand →
     (ea.toNat < 0x2000 →
       (∀ a : Word, ¬ (a.toNat < 0x2000 ∧ ramIndex a = ramIndex ea) → t.memoryByte a = s.memoryByte a) ∧ t.cart = s.cart ∧
       t.ppu = s.ppu ∧ t.port1 = s.port1 ∧ t.port2 = s.port2 ∧ t.cpu.stall = s.cpu.stall) ∧
     (0x6000 ≤ ea.toNat → ea.toNat < 0x8000 →
       (∀ a : Word, a ≠ ea → t.memoryByte a = s.memoryByte a) ∧ t.cart.prg = s.cart.prg ∧ t.cart.chr = s.cart.chr ∧
       t.cart.mapper = s.cart.mapper ∧ t.cart.mirror = s.cart.mirror ∧ t.ppu = s.ppu ∧ t.port1 = s.port1 ∧
       t.port2 = s.port2 ∧ t.cpu.stall = s.cpu.stall)) ∧
  (∀ (i : Instr) (s t : State), storesToEa i → exec i s = .next t → ∀ ea, ea = s.ea i.operand →
     0x2000 ≤ ea.toNat → ¬ (0x6000 ≤ ea.toNat ∧ ea.toNat < 0x8000) →
     t.ram = s.ram ∧ t.cart.sram = s.cart.sram ∧ t.cart.prg = s.cart.prg ∧
     (0x4000 ≤ ea.toNat → t.cart.chr = s.cart.chr ∧ t.ppu.nt = s.ppu.nt ∧ t.ppu.pal = s.ppu.pal) ∧
     (0x4000 ≤ ea.toNat → ea.toNat ≠ 0x4014 → t.ppu = s.ppu) ∧
     (ea.toNat < 0x8000 → t.cart.mapper = s.cart.mapper ∧ t.cart.mirror = s.cart.mirror) ∧
     (ea.toNat ≠ 0x4016 → t.port1.strobe = s.port1.strobe ∧ (ea.toNat ≠ 0x4014 → t.port1 = s.port1)) ∧
     (ea.toNat ≠ 0x4017 → t.port2.strobe = s.port2.strobe ∧ (ea.toNat ≠ 0x4014 → t.port2 = s.port2)) ∧
     (ea.toNat ≠ 0x4014 → t.cpu.stall = s.cpu.stall))

/-! ### The bus -/

/-- The processor-space routing of reads and writes (R110). Memory bytes are read without side effects; registers by
`PpuRegRead` and `PpuRegWrite`, controllers by `ControllerRead` and `ControllerWrite`; the sinks and the unrouted expansion
range read 0. -/
def Obligations.ProcessorSpaceIsRouted : Prop :=
  (∀ (a : Word) (s : State),
     (a.toNat < 0x2000 → memRead a s = .ok (Sparse.read s.ram (a.toNat % 0x800)) s) ∧
     (0x2000 ≤ a.toNat → a.toNat < 0x4000 → memRead a s = .ok (ppuRegRead (a.toNat % 8) s).1 (ppuRegRead (a.toNat % 8) s).2) ∧
     (a = 0x4016#16 → memRead a s = .ok (controllerRead .one s).1 (controllerRead .one s).2) ∧
     (a = 0x4017#16 → memRead a s = .ok (controllerRead .two s).1 (controllerRead .two s).2) ∧
     (0x4000 ≤ a.toNat → a.toNat < 0x4020 → a ≠ 0x4016#16 → a ≠ 0x4017#16 → memRead a s = .ok 0 s) ∧
     (0x4020 ≤ a.toNat → a.toNat < 0x6000 → s.cfg.expansionRouting = .zero → memRead a s = .ok 0 s) ∧
     (0x4020 ≤ a.toNat → a.toNat < 0x6000 → s.cfg.expansionRouting = .mapper → memRead a s = .fault ⟨a, .read⟩ s) ∧
     (0x6000 ≤ a.toNat → a.toNat < 0x8000 → memRead a s = .ok (Sparse.read s.cart.sram (a.toNat - 0x6000)) s) ∧
     (0x8000 ≤ a.toNat → memRead a s = .ok (s.cart.prgRead a.toNat) s)) ∧
  (∀ (a : Word) (v : Byte) (s : State),
     (a.toNat < 0x2000 → memWrite a v s = .ok () { s with ram := Sparse.write s.ram (a.toNat % 0x800) v }) ∧
     (0x2000 ≤ a.toNat → a.toNat < 0x4000 → memWrite a v s = .ok () (ppuRegWrite (a.toNat % 8) v s)) ∧
     (a = 0x4014#16 → memWrite a v s = oamDma v s) ∧
     (a = 0x4016#16 → memWrite a v s = .ok () (controllerWrite .one v s)) ∧
     (a = 0x4017#16 → memWrite a v s = .ok () (controllerWrite .two v s)) ∧
     (0x4000 ≤ a.toNat → a.toNat < 0x4020 → a ≠ 0x4014#16 → a ≠ 0x4016#16 → a ≠ 0x4017#16 → memWrite a v s = .ok () s) ∧
     (0x4020 ≤ a.toNat → a.toNat < 0x6000 → s.cfg.expansionRouting = .zero → memWrite a v s = .ok () s) ∧
     (0x4020 ≤ a.toNat → a.toNat < 0x6000 → s.cfg.expansionRouting = .mapper → memWrite a v s = .fault ⟨a, .write⟩ s) ∧
     (0x6000 ≤ a.toNat → a.toNat < 0x8000 →
       memWrite a v s = .ok () { s with cart := { s.cart with sram := Sparse.write s.cart.sram (a.toNat - 0x6000) v } }) ∧
     (0x8000 ≤ a.toNat → memWrite a v s = .ok () { s with cart := s.cart.registerWrite a.toNat v }))

/-- The OAM DMA of any page (R130). Where no address of the page is unmapped it is 256 turns of a `MemRead`, with its side effects,
and a store at `oam_addr`: turn `i` starts in the state `u i`, and the byte `b i` it reads ends at OAM index `oam_addr + i`;
`oam_addr` ends where it was, the stall grows by 513, one more on the parity `DMA_ODD_EXTRA` names, and RAM, cartridge and the
rest of the processor stay. A page of memory (RAM, save RAM, program) lands byte for byte, and nothing else changes. A page with
an unmapped address faults at the first of them, with no stall charged (log 19). -/
def Obligations.DmaCopiesAPageToOam : Prop :=
  ∀ (v : Byte) (s : State), Sparse.wf s.ppu.oam = true →
    let src (i : Nat) : Word := BitVec.ofNat 16 (v.toNat * 0x100 + i)
    let reachable := s.cfg.expansionRouting = .zero ∨ v.toNat < 0x40 ∨ 0x60 ≤ v.toNat
    let stalled : Cpu := { s.cpu with stall := s.cpu.stall + 513 +
      (if s.cpu.cycles % 2 = (match s.cfg.dmaOddExtra with | .odd => 1 | .even => 0) then 1 else 0) }
    (reachable → ∃ (b : Nat → Byte) (u : Nat → State),
      u 0 = s ∧
      (∀ i, i < 256 → ∃ r, memRead (src i) (u i) = .ok (b i) r ∧
        u (i + 1) = { r with ppu := { r.ppu with
          oam := Sparse.write r.ppu.oam r.ppu.oamAddr.toNat (b i), oamAddr := r.ppu.oamAddr + 1 } }) ∧
      oamDma v s = .ok () { u 256 with cpu := stalled } ∧
      (∀ i : Byte, Sparse.read (u 256).ppu.oam (s.ppu.oamAddr + i).toNat = b i.toNat) ∧
      (u 256).ppu.oamAddr = s.ppu.oamAddr ∧ (u 256).ram = s.ram ∧ (u 256).cart = s.cart) ∧
    (v.toNat < 0x20 ∨ 0x60 ≤ v.toNat → ∃ oam,
      oamDma v s = .ok () { s with ppu := { s.ppu with oam := oam }, cpu := stalled } ∧
      ∀ i : Byte, s.memoryByte (src i.toNat) = some (Sparse.read oam (s.ppu.oamAddr + i).toNat)) ∧
    (¬ reachable → ∃ t, oamDma v s = .fault ⟨if v = 0x40 then 0x4020 else src 0, .read⟩ t ∧ t.cpu = s.cpu)

/-- The controller ports (R140, R141): a read gives the button bit at the index, or 0 past the eighth, in bit 0 alone, and the
index then advances, or is 0 while the strobe is held; a write stores the strobe and clears the index when bit 0 is set. Either
changes its own port alone: `.one` the field `port1`, `.two` the field `port2`. The snapshot each read draws is a free value. -/
def Obligations.ControllersShiftButtons : Prop :=
  ∀ (v : Byte) (s : State),
    let bit (p : Port) (c : Controller) : Nat :=
      if c.index < 8 then ((Config.buttons p c.draws).getLsbD c.index).toNat else 0
    let afterRead (c : Controller) : Controller :=
      { c with index := if c.strobe.getLsbD 0 = true then 0 else c.index + 1, draws := c.draws + 1 }
    let afterWrite (c : Controller) : Controller := { c with strobe := v, index := if v.getLsbD 0 = true then 0 else c.index }
    ((controllerRead .one s).1.toNat = bit .one s.port1 ∧ (controllerRead .one s).2 = { s with port1 := afterRead s.port1 } ∧
      controllerWrite .one v s = { s with port1 := afterWrite s.port1 }) ∧
    ((controllerRead .two s).1.toNat = bit .two s.port2 ∧ (controllerRead .two s).2 = { s with port2 := afterRead s.port2 } ∧
      controllerWrite .two v s = { s with port2 := afterWrite s.port2 })

/-! ### The picture unit's registers -/

/-- PPUCTRL, PPUMASK, OAMADDR, OAMDATA and PPUSTATUS writes (R561, R562, R564, R568): the byte goes to `last_write` and its bits
to the latch; PPUCTRL sets t[11:10] and arms the NMI countdown on a rising edge of `nmi_output and vblank` (R591). PPUSCROLL and
PPUADDR (R565, R566), bit by bit: two writes on the toggle w; the second PPUADDR write copies t to v, and the first clears
t[14]. -/
def Obligations.PictureRegisterWrites : Prop :=
  (∀ (b : Byte) (s : State),
     (∃ p, ppuRegWrite 0 b s = { s with ppu := p } ∧ p.lastWrite = b ∧
       p.ctrl = ⟨b.extractLsb' 0 2, b.getLsbD 2, b.getLsbD 3, b.getLsbD 4, b.getLsbD 5, b.getLsbD 6, b.getLsbD 7⟩ ∧
       (∀ k, k < 15 → p.t.getLsbD k = if k = 10 then b.getLsbD 0 else if k = 11 then b.getLsbD 1 else s.ppu.t.getLsbD k) ∧
       p.nmiPrevious = (b.getLsbD 7 && s.ppu.vblank) ∧
       p.nmiDelay = (if b.getLsbD 7 = true ∧ s.ppu.vblank = true ∧ s.ppu.nmiPrevious = false then s.cfg.nmiDelay
         else s.ppu.nmiDelay) ∧
       p = { s.ppu with
         lastWrite := p.lastWrite, ctrl := p.ctrl, t := p.t, nmiPrevious := p.nmiPrevious, nmiDelay := p.nmiDelay }) ∧
     ppuRegWrite 1 b s = { s with ppu := { s.ppu with
       lastWrite := b
       mask := ⟨b.getLsbD 0, b.getLsbD 1, b.getLsbD 2, b.getLsbD 3, b.getLsbD 4, b.getLsbD 5, b.getLsbD 6, b.getLsbD 7⟩ } } ∧
     ppuRegWrite 2 b s = { s with ppu := { s.ppu with lastWrite := b } } ∧
     ppuRegWrite 3 b s = { s with ppu := { s.ppu with lastWrite := b, oamAddr := b } } ∧
     ppuRegWrite 4 b s = { s with ppu := { s.ppu with
       lastWrite := b, oam := Sparse.write s.ppu.oam s.ppu.oamAddr.toNat b, oamAddr := s.ppu.oamAddr + 1 } }) ∧
  (∀ (b : Byte) (s : State),
     (∃ p, ppuRegWrite 5 b s = { s with ppu := p } ∧ p.w = !s.ppu.w ∧ p.v = s.ppu.v ∧
       p.fineX = (if s.ppu.w = false then b.extractLsb' 0 3 else s.ppu.fineX) ∧
       (∀ k, k < 15 → p.t.getLsbD k =
         if s.ppu.w = false then (if k < 5 then b.getLsbD (k + 3) else s.ppu.t.getLsbD k)
         else if 12 ≤ k then b.getLsbD (k - 12) else if 5 ≤ k ∧ k < 10 then b.getLsbD (k - 2) else s.ppu.t.getLsbD k) ∧
       p = { s.ppu with lastWrite := b, t := p.t, fineX := p.fineX, w := p.w }) ∧
     (∃ p, ppuRegWrite 6 b s = { s with ppu := p } ∧ p.w = !s.ppu.w ∧ p.v = (if s.ppu.w = false then s.ppu.v else p.t) ∧
       (∀ k, k < 15 → p.t.getLsbD k =
         if s.ppu.w = false then (if k < 8 then s.ppu.t.getLsbD k else if k < 14 then b.getLsbD (k - 8) else false)
         else if k < 8 then b.getLsbD k else s.ppu.t.getLsbD k) ∧
       p = { s.ppu with lastWrite := b, t := p.t, v := p.v, w := p.w }))

/-- Register reads (R563, R564, R568): PPUSTATUS gives vblank, sprite-zero hit and overflow over the low bits of `last_write`,
then clears vblank and w and takes the NMI line down; OAMDATA gives the byte at `oam_addr`; a write-only register reads 0. The
data port (R567): a read below 0x3F00 gives the buffer and refills it; a palette read is direct and refills it from 0x1000
below; a write goes to picture space at v; either way v advances by 1 or 32 modulo 2^15. -/
def Obligations.PictureRegisterReadsAndDataPort : Prop :=
  (∀ s : State,
     (ppuRegRead 2 s).1.toNat = s.ppu.lastWrite.toNat % 32 + 32 * s.ppu.spriteOverflow.toNat + 64 * s.ppu.sprite0Hit.toNat +
       128 * s.ppu.vblank.toNat ∧
     (ppuRegRead 2 s).2 = { s with ppu := { s.ppu with vblank := false, nmiPrevious := false, w := false } } ∧
     ppuRegRead 4 s = (Sparse.read s.ppu.oam s.ppu.oamAddr.toNat, s) ∧
     ∀ r, r = 0 ∨ r = 1 ∨ r = 3 ∨ r = 5 ∨ r = 6 → ppuRegRead r s = (0, s)) ∧
  (∀ (b : Byte) (s : State),
     let v' := s.ppu.v + (if s.ppu.ctrl.inc32 = true then 32#15 else 1#15)
     (s.ppu.v.toNat % 0x4000 < 0x3F00 →
       ppuRegRead 7 s = (s.ppu.readBuffer, { s with ppu := { s.ppu with readBuffer := ppuRead s s.ppu.v.toNat, v := v' } })) ∧
     (0x3F00 ≤ s.ppu.v.toNat % 0x4000 →
       ppuRegRead 7 s = (ppuRead s s.ppu.v.toNat,
         { s with ppu := { s.ppu with readBuffer := ppuRead s (s.ppu.v.toNat - 0x1000), v := v' } })) ∧
     (let t := ppuWrite { s with ppu := { s.ppu with lastWrite := b } } s.ppu.v.toNat b
      ppuRegWrite 7 b s = { t with ppu := { t.ppu with v := v' } }))

/-! ### Picture space -/

/-- `MirrorTable` and `NtIndex` (R121, R122): the 20 values of the table at the four quadrants, the repeat at 0x3000, and the
fold of physical quadrants 2 and 3. -/
def Obligations.NametablesAreMirrored : Prop :=
  (∀ (m : Mirroring) (q o : Nat), q < 4 → o < 0x400 →
    ntIndex m (0x2000 + 0x400 * q + o) =
      (match m, q with
        | .horizontal, 0 => 0 | .horizontal, 1 => 0 | .horizontal, _ => 0x400
        | .vertical, 0 => 0 | .vertical, 1 => 0x400 | .vertical, 2 => 0 | .vertical, _ => 0x400
        | .single0, _ => 0
        | .single1, _ => 0x400
        | .four, 0 => 0 | .four, 1 => 0x400 | .four, 2 => 0 | .four, _ => 0x400) + o) ∧
  ∀ (m : Mirroring) (a : Nat), 0x2000 ≤ a → a < 0x2F00 → ntIndex m (a + 0x1000) = ntIndex m a

/-- Picture space (R120, R123): a read after a write of the same address gives the byte, below 0x2000 through the mapper's
banks, then the nametables, then the palette with its aliases; and palette entries 16, 20, 24, 28 are 0, 4, 8, 12. -/
def Obligations.PictureSpaceStoresBytes : Prop :=
  (∀ (a : Nat) (v : Byte) (s : State), s.Inv → ppuRead (ppuWrite s a v) a = v) ∧
  (∀ (a : Nat) (s : State), ppuRead s a = ppuRead s (a % 0x4000)) ∧
  ∀ a, 0x3F00 ≤ a → a < 0x4000 → palIndex a = if a % 32 ∈ [16, 20, 24, 28] then a % 32 - 16 else a % 32

/-! ### The picture step -/

/-- The raster advance of a picture step (R551), with the odd-frame skip. -/
def Obligations.RasterAdvances : Prop :=
  ∀ s : State,
    let q := (ppuStep s).ppu
    let skip := s.ppu.rendering = true ∧ s.ppu.f = true ∧ s.ppu.scanline = 261 ∧ s.ppu.dot = 339
    let wraps := 340 ≤ s.ppu.dot ∧ 261 ≤ s.ppu.scanline
    (skip ∨ wraps → q.dot = 0 ∧ q.scanline = 0 ∧ q.frame = s.ppu.frame + 1 ∧ q.f = !s.ppu.f) ∧
    (¬ skip → s.ppu.dot < 340 →
      q.dot = s.ppu.dot + 1 ∧ q.scanline = s.ppu.scanline ∧ q.frame = s.ppu.frame ∧ q.f = s.ppu.f) ∧
    (340 ≤ s.ppu.dot → s.ppu.scanline < 261 →
      q.dot = 0 ∧ q.scanline = s.ppu.scanline + 1 ∧ q.frame = s.ppu.frame ∧ q.f = s.ppu.f)

/-- A pre-render-to-pre-render cycle (R555): 89342 picture steps, one less on an odd frame with rendering enabled, return to
(261, 0) with the frame counter one higher and the parity flipped. -/
def Obligations.FrameLength : Prop :=
  ∀ s : State, s.ppu.dot = 0 → s.ppu.scanline = 261 →
    let t := runPicture (if s.ppu.rendering = true ∧ s.ppu.f = true then 89341 else 89342) s
    t.ppu.dot = 0 ∧ t.ppu.scanline = 261 ∧ t.ppu.frame = s.ppu.frame + 1 ∧ t.ppu.f = !s.ppu.f

/-- Vblank (R592, R593, R595): set, with the buffers exchanged, in the picture step that moves to (241, 1); cleared, with
sprite-zero hit and overflow, in the one that moves to (261, 1); and no other picture step changes it or the front buffer. -/
def Obligations.VblankSetsAndClears : Prop :=
  ∀ s : State,
    let t := ppuStep s
    let at241 := t.ppu.scanline = 241 ∧ t.ppu.dot = 1
    let at261 := t.ppu.scanline = 261 ∧ t.ppu.dot = 1
    (at241 → t.ppu.vblank = true ∧ t.ppu.front = s.ppu.back ∧ t.ppu.back = s.ppu.front) ∧
    (at261 → t.ppu.vblank = false ∧ t.ppu.sprite0Hit = false ∧ t.ppu.spriteOverflow = false ∧ t.ppu.front = s.ppu.front) ∧
    (¬ at241 → ¬ at261 → t.ppu.vblank = s.ppu.vblank ∧ t.ppu.front = s.ppu.front)

/-- The delayed NMI (R594, R591): the countdown runs one down at the start of every picture step, and the request is made in the
step that takes it to 0 while `nmi_output and vblank` holds; the edge at the vblank set arms it with `NMI_DELAY`. -/
def Obligations.NmiFiresAfterCountdown : Prop :=
  (∀ s : State, s.ppu.nmiDelay = 0 → (ppuStep s).cpu = s.cpu) ∧
  (∀ s : State, 0 < s.ppu.nmiDelay → (ppuStep s).cpu.latch =
    if s.ppu.nmiDelay = 1 ∧ s.ppu.ctrl.nmiOutput = true ∧ s.ppu.vblank = true then .nmi else s.cpu.latch) ∧
  (∀ s : State, (ppuStep s).ppu.scanline = 241 → (ppuStep s).ppu.dot = 1 →
    (ppuStep s).ppu.nmiDelay =
      if s.ppu.ctrl.nmiOutput = true ∧ s.ppu.nmiPrevious = false then s.cfg.nmiDelay else s.ppu.nmiDelay - 1) ∧
  ∀ s : State, ¬ ((ppuStep s).ppu.dot = 1 ∧ ((ppuStep s).ppu.scanline = 241 ∨ (ppuStep s).ppu.scanline = 261)) →
    (ppuStep s).ppu.nmiDelay = s.ppu.nmiDelay - 1

/-- Background fetch and scroll.
(1) The increments and copies (R574, R575, R576) on the fields of v: coarse X wraps into nametable bit 10; fine Y carries into
coarse Y, which at 29 wraps into nametable bit 11 and at 31 wraps without; CopyX takes coarse X and bit 10 from t, CopyY the
other bits. Packing a tile row (R573): pixel `i` from the left, in the low half of the shift register, is joined by attribute
bits 3:2, bit 7 - i of the high plane and bit 7 - i of the low plane; the high half stays.
(2) When a picture step makes them (R554 steps 3 to 6), line and dot being those it moves to: on a fetch dot of a render line, while
rendering, the shift register moves 4 bits and `dot mod 8` chooses a fetch from v as it was (R570, R571, R572) or the store;
then v is copied or incremented. On every other step each of them is as it was. No picture step changes t, x, w, the latches, the
picture memories, the data-port buffer or anything outside the picture unit but the interrupt latch. -/
def Obligations.BackgroundFetchesAndScroll : Prop :=
  (((∀ v : BitVec 15, let r := incrementX v
     (r.extractLsb' 0 5).toNat = ((v.extractLsb' 0 5).toNat + 1) % 32 ∧
     r.getLsbD 10 = (v.getLsbD 10 != decide ((v.extractLsb' 0 5).toNat = 31)) ∧
     ∀ k, k < 15 → 5 ≤ k → k ≠ 10 → r.getLsbD k = v.getLsbD k) ∧
   (∀ v : BitVec 15, let r := incrementY v
     let fine := (v.extractLsb' 12 3).toNat
     let coarse := (v.extractLsb' 5 5).toNat
     (r.extractLsb' 12 3).toNat = (fine + 1) % 8 ∧
     (r.extractLsb' 5 5).toNat = (if fine < 7 then coarse else if coarse = 29 ∨ coarse = 31 then 0 else coarse + 1) ∧
     r.getLsbD 11 = (v.getLsbD 11 != decide (fine = 7 ∧ coarse = 29)) ∧
     r.getLsbD 10 = v.getLsbD 10 ∧ r.extractLsb' 0 5 = v.extractLsb' 0 5) ∧
   (∀ (v t : BitVec 15) (k : Nat), k < 15 →
     (copyX v t).getLsbD k = if k < 5 ∨ k = 10 then t.getLsbD k else v.getLsbD k) ∧
   ∀ (v t : BitVec 15) (k : Nat), k < 15 →
     (copyY v t).getLsbD k = if k < 5 ∨ k = 10 then v.getLsbD k else t.getLsbD k) ∧
  (∀ (p : Ppu) (i : Nat), i < 8 →
     (p.storeTileData.tileShift >>> (4 * (7 - i))).setWidth 4 =
       ((p.tileShift >>> (4 * (7 - i))).setWidth 4 ||| p.atBits ||| (BitVec.ofBool (p.patLo.getLsbD (7 - i))).setWidth 4 |||
         ((BitVec.ofBool (p.patHi.getLsbD (7 - i))).setWidth 4 <<< 1)) ∧
     p.storeTileData.tileShift.extractLsb' 32 32 = p.tileShift.extractLsb' 32 32)) ∧
  ∀ s : State,
    let t := ppuStep s
    let q := t.ppu
    let onLine := s.ppu.rendering = true ∧ (q.scanline ≤ 239 ∨ q.scanline = 261)
    let fetch (k : Nat) := onLine ∧ ((1 ≤ q.dot ∧ q.dot ≤ 256) ∨ (321 ≤ q.dot ∧ q.dot ≤ 336)) ∧ q.dot % 8 = k
    let v := s.ppu.v.toNat
    let coarseX := v % 32
    let coarseY := v / 32 % 32
    let atByte := ppuRead s (0x23C0 + 0x400 * (v / 0x400 % 4) + 8 * (coarseY / 4) + coarseX / 4)
    let row := (if s.ppu.ctrl.bgTable = true then 0x1000 else 0) + 16 * s.ppu.ntByte.toNat + v / 0x1000
    let shifted : Ppu := { s.ppu with tileShift := s.ppu.tileShift <<< 4 }
    ((fetch 0 → q.tileShift = shifted.storeTileData.tileShift) ∧
     (∀ k, k ≠ 0 → fetch k → q.tileShift = s.ppu.tileShift <<< 4) ∧ ((∀ k, ¬ fetch k) → q.tileShift = s.ppu.tileShift)) ∧
    ((fetch 1 → q.ntByte = ppuRead s (0x2000 + v % 0x1000)) ∧ (¬ fetch 1 → q.ntByte = s.ppu.ntByte)) ∧
    ((fetch 3 → q.atBits = atByte.extractLsb' (4 * (coarseY / 2 % 2) + 2 * (coarseX / 2 % 2)) 2 ++ 0#2) ∧
     (¬ fetch 3 → q.atBits = s.ppu.atBits)) ∧
    ((fetch 5 → q.patLo = ppuRead s row) ∧ (¬ fetch 5 → q.patLo = s.ppu.patLo)) ∧
    ((fetch 7 → q.patHi = ppuRead s (row + 8)) ∧ (¬ fetch 7 → q.patHi = s.ppu.patHi)) ∧
    ((onLine → q.dot = 256 → q.v = incrementY (incrementX s.ppu.v)) ∧
     (onLine → q.dot = 257 → q.v = copyX s.ppu.v s.ppu.t) ∧
     (onLine → q.scanline = 261 → 280 ≤ q.dot → q.dot ≤ 304 → q.v = copyY s.ppu.v s.ppu.t) ∧
     (fetch 0 → q.dot ≠ 256 → q.v = incrementX s.ppu.v) ∧
     (¬ fetch 0 → ¬ (onLine ∧ (q.dot = 257 ∨ (q.scanline = 261 ∧ 280 ≤ q.dot ∧ q.dot ≤ 304))) → q.v = s.ppu.v)) ∧
    (q.t = s.ppu.t ∧ q.fineX = s.ppu.fineX ∧ q.w = s.ppu.w ∧ q.ctrl = s.ppu.ctrl ∧ q.mask = s.ppu.mask ∧ q.oam = s.ppu.oam ∧
     q.oamAddr = s.ppu.oamAddr ∧ q.nt = s.ppu.nt ∧ q.pal = s.ppu.pal ∧ q.readBuffer = s.ppu.readBuffer ∧
     q.lastWrite = s.ppu.lastWrite) ∧
    t = { s with ppu := q, cpu := { s.cpu with latch := t.cpu.latch } }

/-- Sprites of the next line.
(1) Evaluation (R580): the entries whose rows the next line crosses, in OAM order; at most eight are kept, and the overflow flag
is set when there are more; a kept slot holds the entry's column, priority, number and pattern row. Before line 0 there are none
(log 12).
(2) The pattern row (R581): pixel `i` from the left is palette bits 3:2, then the bits of the high and the low plane, numbered from
the left, or from the right under the horizontal flip; the row is counted from the bottom under the vertical flip; an 8x16
sprite takes its table from tile bit 0 and its lower half from the next tile.
(3) When (R554 step 5): a picture step that moves to dot 257 while rendering evaluates where the next line is visible, and else
sets the count to 0; no other picture step changes the slots or the count, or the overflow flag but to clear it at (261, 1). -/
def Obligations.SpriteEvaluationKeepsEight : Prop :=
  (∀ s : State,
    let h := if s.ppu.ctrl.spriteSize16 = true then 16 else 8
    let y := fun i => (Sparse.read s.ppu.oam (4 * i)).toNat
    let hits := (List.range 64).filter fun i => decide (y i ≤ s.ppu.scanline ∧ s.ppu.scanline < y i + h)
    let t := evaluateSprites s
    (s.ppu.scanline ≤ 238 →
      t.ppu.spriteCount = min hits.length 8 ∧
      t.ppu.spriteOverflow = (s.ppu.spriteOverflow || decide (8 < hits.length)) ∧
      ∀ k i, k < 8 → hits[k]? = some i →
        t.ppu.sprites[k]? = some
          { pattern := spritePattern s (Sparse.read s.ppu.oam (4 * i + 1)) (Sparse.read s.ppu.oam (4 * i + 2))
              (s.ppu.scanline - y i)
            x := Sparse.read s.ppu.oam (4 * i + 3)
            priority := (Sparse.read s.ppu.oam (4 * i + 2)).getLsbD 5
            index := BitVec.ofNat 6 i }) ∧
    (s.ppu.scanline = 261 → t.ppu.spriteCount = 0 ∧ t.ppu.spriteOverflow = s.ppu.spriteOverflow)) ∧
  (∀ (s : State) (tile attr : Byte) (row i : Nat), i < 8 →
    let bit := if attr.getLsbD 6 = true then i else 7 - i
    let pixel (a : Nat) : BitVec 4 := attr.extractLsb' 0 2 ++
      (BitVec.ofBool ((ppuRead s (a + 8)).getLsbD bit) ++ BitVec.ofBool ((ppuRead s a).getLsbD bit))
    (s.ppu.ctrl.spriteSize16 = false → row < 8 →
      (spritePattern s tile attr row).extractLsb' (28 - 4 * i) 4 =
        pixel ((if s.ppu.ctrl.spriteTable = true then 0x1000 else 0) + 16 * tile.toNat +
          (if attr.getLsbD 7 = true then 7 - row else row))) ∧
    (s.ppu.ctrl.spriteSize16 = true → row < 16 →
      let r := if attr.getLsbD 7 = true then 15 - row else row
      (spritePattern s tile attr row).extractLsb' (28 - 4 * i) 4 =
        pixel (0x1000 * (tile.toNat % 2) + 16 * (tile.toNat / 2 * 2 + r / 8) + r % 8))) ∧
  ∀ s : State,
    let q := (ppuStep s).ppu
    let e := (evaluateSprites s).ppu
    let here := s.ppu.rendering = true ∧ q.dot = 257
    (here → q.scanline = s.ppu.scanline) ∧
    (here → (q.scanline + 1) % 262 ≤ 239 →
      q.sprites = e.sprites ∧ q.spriteCount = e.spriteCount ∧ q.spriteOverflow = e.spriteOverflow) ∧
    (here → 239 < (q.scanline + 1) % 262 →
      q.sprites = s.ppu.sprites ∧ q.spriteCount = 0 ∧ q.spriteOverflow = s.ppu.spriteOverflow) ∧
    (¬ here → q.sprites = s.ppu.sprites ∧ q.spriteCount = s.ppu.spriteCount ∧
      q.spriteOverflow = if q.scanline = 261 ∧ q.dot = 1 then false else s.ppu.spriteOverflow)

/-- The combination of one pixel (R586): transparent over transparent is colour 0; the sprite-zero hit needs both opaque, OAM
entry 0 and a column below 255; otherwise the sprite's priority bit decides. The sprite pixel (R582) is the first opaque one, in
OAM order, among the buffers whose eight columns hold the column. -/
def Obligations.PixelsCombine : Prop :=
  ∀ (px : Nat) (bg sp : BitVec 4) (sl : SpriteSlot),
    combinePixel px bg none = ⟨if bg.toNat % 4 = 0 then 0 else bg.setWidth 5, false⟩ ∧
    (sp.toNat % 4 ≠ 0 → bg.toNat % 4 = 0 → combinePixel px bg (some (sl, sp)) = ⟨0x10#5 ||| sp.setWidth 5, false⟩) ∧
    (sp.toNat % 4 ≠ 0 → bg.toNat % 4 ≠ 0 →
      combinePixel px bg (some (sl, sp)) =
        ⟨if sl.priority = false then 0x10#5 ||| sp.setWidth 5 else bg.setWidth 5, decide (sl.index = 0 ∧ px < 255)⟩) ∧
    (∀ n rest, firstOpaque px (n + 1) (sl :: rest) =
      if sl.x.toNat ≤ px ∧ px ≤ sl.x.toNat + 7 ∧ (sl.pattern.extractLsb' (28 - 4 * (px - sl.x.toNat)) 4).toNat % 4 ≠ 0 then
        some (sl, sl.pattern.extractLsb' (28 - 4 * (px - sl.x.toNat)) 4)
      else firstOpaque px n rest) ∧
    (∀ l, firstOpaque px 0 l = none) ∧ ∀ n, firstOpaque px n [] = none

/-- A picture step draws the pixel of a visible dot and no other, and only while rendering (R554, R585, R586, R587): where the
raster moves to column `dot - 1` of a visible line, that pixel of the back buffer takes the colour `PALETTE_RGB` gives the palette
byte of the combination of the background pixel and the sprite pixel, each absent in columns 0 to 7 unless shown there, and the
sprite-zero hit is recorded; every other pixel is as it was. `PALETTE_RGB` is a free value. -/
def Obligations.RenderingDrawsOnePixel : Prop :=
  ∀ (s : State) (k : Nat), Sparse.wf s.ppu.back = true →
    let p := (ppuStep s).ppu
    let px := p.dot - 1
    let here := s.ppu.rendering = true ∧ p.scanline ≤ 239 ∧ 1 ≤ p.dot ∧ p.dot ≤ 256
    let bg : BitVec 4 := if s.ppu.mask.showBg = false ∨ (px < 8 ∧ s.ppu.mask.showLeftBg = false) then 0
      else s.ppu.tileShift.extractLsb' (60 - 4 * s.ppu.fineX.toNat) 4
    let r := combinePixel px bg
      (if s.ppu.mask.showSprites = false ∨ (px < 8 ∧ s.ppu.mask.showLeftSprites = false) then none
        else firstOpaque px s.ppu.spriteCount s.ppu.sprites.toList)
    ¬ (p.scanline = 241 ∧ p.dot = 1) →
    (here → p.sprite0Hit = (s.ppu.sprite0Hit || r.hit)) ∧
    (here ∧ k = 256 * p.scanline + px →
      Sparse.read p.back k = Config.paletteRgb ((Sparse.read s.ppu.pal (palIndex (0x3F00 + r.color.toNat))).setWidth 6)) ∧
    (¬ (here ∧ k = 256 * p.scanline + px) → Sparse.read p.back k = Sparse.read s.ppu.back k)

/-! ### Mappers -/

/-- `BankOffset` (R655): a window at a bank offset lies inside the array and starts at a bank; values 0x80 to 0xFF are negative,
and -1 is the last bank. -/
def Obligations.BankOffsetsStayInside : Prop :=
  ∀ (size n : Nat) (i : Int), 0 < size → 0 < n →
    bankOffset i size (n * size) + size ≤ n * size ∧ size ∣ bankOffset i size (n * size) ∧
    (0 ≤ i → i < 0x80 → bankOffset i size (n * size) = i.toNat % n * size) ∧
    (0x80 ≤ i → i < 0x100 → bankOffset i size (n * size) = bankOffset (i - 0x100) size (n * size)) ∧
    bankOffset (-1) size (n * size) = (n - 1) * size

/-- FIXED_CHR (R660 to R663): the first and the last 16 KiB bank, one pattern bank chosen by bits 1:0 of a value written
anywhere from 0x8000, reduced modulo the bank count; nothing else changes. -/
def Obligations.FixedChrWindows : Prop :=
  ∀ (c : Cartridge) (st : FixedChr), c.mapper = .fixedChr st →
    (∀ a, 0x8000 ≤ a → a < 0xC000 → c.read a = some (c.prg.read (a - 0x8000))) ∧
    (∀ a, 0xC000 ≤ a → a < 0x10000 → c.read a = some (c.prg.read ((c.prg.len / 0x4000 - 1) * 0x4000 + (a - 0xC000)))) ∧
    (∀ a, a < 0x2000 → c.read a = some (c.chr.read ((st.chrBank.toNat % (c.chr.len / 0x2000)) * 0x2000 + a))) ∧
    ∀ (a : Nat) (v : Byte), 0x8000 ≤ a → c.write a v = some { c with mapper := .fixedChr ⟨v.extractLsb' 0 2⟩ }

/-- What every variant reads and stores where (R652, R653, R654), and the windows of SHIFT_REG (R676) and SCANLINE_IRQ (R698): a
window shows its array from its offset on. -/
def Obligations.MapperWindowsAreRead : Prop :=
  ∀ (c : Cartridge) (v : Byte),
    (∀ a, 0x2000 ≤ a → a < 0x6000 → c.read a = none ∧ c.write a v = none) ∧
    (∀ a, a < 0x2000 → c.read a = some (c.chr.read (c.chrAddr a)) ∧
      c.write a v = some { c with chr := { c.chr with cells := Sparse.write c.chr.cells (c.chrAddr a) v } }) ∧
    (∀ o, o < 0x2000 → c.read (0x6000 + o) = some (Sparse.read c.sram o) ∧
      c.write (0x6000 + o) v = some { c with sram := Sparse.write c.sram o v }) ∧
    (∀ st, c.mapper = .shiftReg st →
      (∀ (i : Fin 2) (o : Nat), o < 0x1000 → c.chrAddr (0x1000 * i + o) = st.chrOff[i] + o) ∧
      ∀ (i : Fin 2) (o : Nat), o < 0x4000 → c.read (0x8000 + 0x4000 * i + o) = some (c.prg.read (st.prgOff[i] + o))) ∧
    ∀ st, c.mapper = .scanlineIrq st →
      (∀ (i : Fin 8) (o : Nat), o < 0x400 → c.chrAddr (0x400 * i + o) = st.chrOff[i] + o) ∧
      ∀ (i : Fin 4) (o : Nat), o < 0x2000 → c.read (0x8000 + 0x2000 * i + o) = some (c.prg.read (st.prgOff[i] + o))

/-- SHIFT_REG's serial protocol (R670, R671, R672): from an empty register, five writes of values with bit 7 clear load the five
bits 0, first write lowest, into the register that the fifth address names, and empty the register again; the control register
also sets the mirroring. -/
def Obligations.FiveWritesLoadAShiftRegister : Prop :=
  ∀ (c : Cartridge) (st : ShiftReg) (a1 a2 a3 a4 a5 : Nat) (v1 v2 v3 v4 v5 : Byte),
    c.mapper = .shiftReg st → st.shift = 0x10#5 → (∀ v ∈ [v1, v2, v3, v4, v5], v.getLsbD 7 = false) →
    let d : BitVec 5 := BitVec.ofBool (v5.getLsbD 0) ++ (BitVec.ofBool (v4.getLsbD 0) ++ (BitVec.ofBool (v3.getLsbD 0) ++
      (BitVec.ofBool (v2.getLsbD 0) ++ BitVec.ofBool (v1.getLsbD 0))))
    let c' := ((((c.registerWrite a1 v1).registerWrite a2 v2).registerWrite a3 v3).registerWrite a4 v4).registerWrite a5 v5
    let loads (st' : ShiftReg) (m : Mirroring) : Prop :=
      c' = { c with mapper := .shiftReg (st'.updateOffsets c.prg.len c.chr.len), mirror := m }
    (a5 < 0xA000 → loads { st with control := d }
      (match (d.extractLsb' 0 2).toNat with | 0 => .single0 | 1 => .single1 | 2 => .vertical | _ => .horizontal)) ∧
    (0xA000 ≤ a5 → a5 < 0xC000 → loads { st with chrBank0 := d } c.mirror) ∧
    (0xC000 ≤ a5 → a5 < 0xE000 → loads { st with chrBank1 := d } c.mirror) ∧
    (0xE000 ≤ a5 → loads { st with prgBank := d.extractLsb' 0 4 } c.mirror)

/-- A write with bit 7 set empties SHIFT_REG's register (R670) and runs `WriteControl(control | 0x0C)` (R672): control bits 3:2 are
forced, the mirroring of bits 1:0 is applied again, the offsets are those of `UpdateOffsets`, and nothing else of the cartridge
changes. And the windows of every PRG and CHR mode (R673). -/
def Obligations.ShiftRegisterResetAndWindows : Prop :=
  (∀ (c : Cartridge) (st : ShiftReg) (a : Nat) (v : Byte), c.mapper = .shiftReg st → v.getLsbD 7 = true →
    c.registerWrite a v = { c with
      mapper := .shiftReg ({ st with shift := 0x10#5, control := st.control ||| 0x0C#5 }.updateOffsets c.prg.len c.chr.len)
      mirror := match (st.control.extractLsb' 0 2).toNat with
        | 0 => .single0 | 1 => .single1 | 2 => .vertical | _ => .horizontal }) ∧
  ∀ (st : ShiftReg) (p c : Nat),
    let r := st.updateOffsets p c
    let b := st.prgBank.toNat
    let mode := (st.control.extractLsb' 2 2).toNat
    (mode < 2 → r.prgOff = #v[bankOffset (b - b % 2 : Nat) 0x4000 p, bankOffset (b - b % 2 + 1 : Nat) 0x4000 p]) ∧
    (mode = 2 → r.prgOff = #v[0, bankOffset b 0x4000 p]) ∧
    (mode = 3 → r.prgOff = #v[bankOffset b 0x4000 p, bankOffset (-1) 0x4000 p]) ∧
    (st.control.getLsbD 4 = false → r.chrOff =
      #v[bankOffset (st.chrBank0.toNat - st.chrBank0.toNat % 2 : Nat) 0x1000 c,
        bankOffset (st.chrBank0.toNat - st.chrBank0.toNat % 2 + 1 : Nat) 0x1000 c]) ∧
    (st.control.getLsbD 4 = true → r.chrOff =
      #v[bankOffset st.chrBank0.toNat 0x1000 c, bankOffset st.chrBank1.toNat 0x1000 c])

/-- SCANLINE_IRQ's registers (R690 to R695) and its program and pattern windows after a write (R698). -/
def Obligations.ScanlineRegisters : Prop :=
  ∀ (c : Cartridge) (st : ScanlineIrq) (a : Nat) (v : Byte), c.mapper = .scanlineIrq st → 0x8000 ≤ a → a < 0x10000 →
    let wrote (st' : ScanlineIrq) (m : Mirroring) : Prop :=
      c.registerWrite a v = { c with mapper := .scanlineIrq (st'.updateOffsets c.prg.len c.chr.len), mirror := m }
    (a < 0xA000 → a % 2 = 0 → wrote { st with
      bankSelect := v.extractLsb' 0 3, prgMode := v.getLsbD 6, chrMode := v.getLsbD 7 } c.mirror) ∧
    (a < 0xA000 → a % 2 = 1 → wrote { st with regs := st.regs.setIfInBounds st.bankSelect.toNat v } c.mirror) ∧
    (0xA000 ≤ a → a < 0xC000 → a % 2 = 0 → wrote st (if v.getLsbD 0 = true then .horizontal else .vertical)) ∧
    (0xA000 ≤ a → a < 0xC000 → a % 2 = 1 → wrote st c.mirror) ∧
    (0xC000 ≤ a → a < 0xE000 → a % 2 = 0 → wrote { st with irqLatch := v } c.mirror) ∧
    (0xC000 ≤ a → a < 0xE000 → a % 2 = 1 → wrote { st with irqCounter := 0 } c.mirror) ∧
    (0xE000 ≤ a → wrote { st with irqEnable := decide (a % 2 = 1) } c.mirror) ∧
    (∀ i : Fin 4, (st.updateOffsets c.prg.len c.chr.len).prgOff[i] =
      bankOffset (if i = 3 then -1 else if i = 1 then ((st.regs[7].toNat : Nat) : Int)
        else if (i = 2) = (st.prgMode = false) then -2 else ((st.regs[6].toNat : Nat) : Int)) 0x2000 c.prg.len) ∧
    let cb (n : Nat) : Nat := bankOffset n 0x400 c.chr.len
    let r (k : Fin 8) : Nat := st.regs[k].toNat
    let lo := [cb (r 0 - r 0 % 2), cb (r 0 - r 0 % 2 + 1), cb (r 1 - r 1 % 2), cb (r 1 - r 1 % 2 + 1)]
    let hi := [cb (r 2), cb (r 3), cb (r 4), cb (r 5)]
    (st.updateOffsets c.prg.len c.chr.len).chrOff.toList = if st.chrMode = false then lo ++ hi else hi ++ lo

/-- The scanline counter (R696, R697): after a reload, the (L + 1)th clock is the first to find zero; each clock that leaves
zero with IRQ enabled requests an IRQ; and it is clocked at dot 260 of lines 0 to 239 and 261 while rendering, and at no other
time. -/
def Obligations.ScanlineCounterReachesZero : Prop :=
  (∀ (st : ScanlineIrq) (k : Nat), st.irqCounter = 0 → k ≤ st.irqLatch.toNat →
    (ScanlineIrq.clocked^[k + 1] st).irqCounter.toNat = st.irqLatch.toNat - k) ∧
  (∀ (s : State) (st : ScanlineIrq), s.cart.mapper = .scanlineIrq st →
    (s.ppu.dot = 260 ∧ (s.ppu.scanline < 240 ∨ 260 < s.ppu.scanline) ∧ s.ppu.rendering = true →
      let c := { s with cart := { s.cart with mapper := .scanlineIrq { st with
        irqCounter := if st.irqCounter = 0 then st.irqLatch else st.irqCounter - 1 } } }
      mapperStep s =
        if (if st.irqCounter = 0 then st.irqLatch else st.irqCounter - 1) = 0 ∧ st.irqEnable = true then requestIrq c else c) ∧
    (¬ (s.ppu.dot = 260 ∧ (s.ppu.scanline < 240 ∨ 260 < s.ppu.scanline) ∧ s.ppu.rendering = true) → mapperStep s = s)) ∧
  ∀ s : State, (∀ st, s.cart.mapper ≠ .scanlineIrq st) → mapperStep s = s

/-! ### Load and reset -/

/-- The load (R726, R657): an unknown selector is refused; a known one gives a machine whose arrays hold the input and then
zeros, up to the least positive multiple of the unit, and whose program counter is the little-endian word at 0xFFFC. -/
def Obligations.LoadFillsTheArrays : Prop :=
  ∀ (cfg : Config) (prg chr : List Byte) (sel : Int),
    let least (n len unit : Nat) : Prop := 0 < n ∧ unit ∣ n ∧ len ≤ n ∧ ∀ m, 0 < m → unit ∣ m → len ≤ m → n ≤ m
    (cfg.mapperSelector.lookup sel = none → State.load cfg prg chr sel = .error (.unsupportedMapper sel)) ∧
    ∀ v, cfg.mapperSelector.lookup sel = some v →
      ∃ s, State.load cfg prg chr sel = .ok s ∧
        least s.cart.prg.len prg.length (if v = .scanlineIrq then 0x2000 else 0x4000) ∧
        least s.cart.chr.len chr.length 0x2000 ∧
        (∀ i, s.cart.prg.read i = prg.getD i 0) ∧ (∀ i, s.cart.chr.read i = chr.getD i 0) ∧
        s.cart.sram = [] ∧ s.cart.mirror = cfg.initialMirror ∧ s.cfg = cfg ∧
        memRead16 0xFFFC s = .ok s.cpu.pc s

/-- What a load leaves in the processor, the controllers, the picture unit (R90, R720, R721, R722) and the variant (R663, R677,
R699); `State.reset` is such a state. The source gives the program counter, SP, P and the cycle counter; every other value here, the
zeros and the raster position (240, 340), is the DESIGN CHOICE of log 7 (D12, D16, D23, D27, D28, D34). -/
def Obligations.LoadResetsTheMachine : Prop :=
  ∀ (cfg : Config) (prg chr : List Byte) (sel : Int) (s : State),
    State.load cfg prg chr sel = .ok s →
      (s.cpu.sp = 0xFD#8 ∧ s.cpu.flags.pack = 0x24#8 ∧ s.cpu.cycles = 12 ∧ memRead16 0xFFFC s = .ok s.cpu.pc s) ∧
      (s.cpu.a = 0 ∧ s.cpu.x = 0 ∧ s.cpu.y = 0 ∧ s.cpu.latch = .none ∧ s.cpu.stall = 0 ∧ (∀ i, Sparse.read s.ram i = 0) ∧
        s.port1.strobe = 0 ∧ s.port1.index = 0 ∧ s.port2.strobe = 0 ∧ s.port2.index = 0 ∧ s.halted = false ∧
        s.faultRecord = none) ∧
      (s.ppu.dot = 340 ∧ s.ppu.scanline = 240 ∧ s.ppu.frame = 0 ∧ s.ppu.f = false ∧ s.ppu.v = 0 ∧ s.ppu.t = 0 ∧
        s.ppu.fineX = 0 ∧ s.ppu.w = false ∧ s.ppu.ctrl = ⟨0, false, false, false, false, false, false⟩ ∧
        s.ppu.mask = ⟨false, false, false, false, false, false, false, false⟩ ∧ s.ppu.rendering = false ∧
        s.ppu.vblank = false ∧ s.ppu.sprite0Hit = false ∧ s.ppu.spriteOverflow = false ∧
        (∀ i, Sparse.read s.ppu.oam i = 0) ∧ s.ppu.oamAddr = 0 ∧ (∀ i, Sparse.read s.ppu.nt i = 0) ∧
        (∀ i, Sparse.read s.ppu.pal i = 0) ∧ s.ppu.readBuffer = 0 ∧ s.ppu.lastWrite = 0 ∧ s.ppu.nmiLine = false ∧
        s.ppu.nmiPrevious = false ∧ s.ppu.nmiDelay = 0) ∧
      (s.ppu.ntByte = 0 ∧ s.ppu.atBits = 0 ∧ s.ppu.patLo = 0 ∧ s.ppu.patHi = 0 ∧ s.ppu.tileShift = 0 ∧ s.ppu.spriteCount = 0 ∧
        (∀ i : Fin 8, s.ppu.sprites[i] = ⟨0, 0, false, 0⟩) ∧ (∀ i, Sparse.read s.ppu.front i = 0) ∧
        ∀ i, Sparse.read s.ppu.back i = 0) ∧
      (∀ st, s.cart.mapper = .fixedChr st → st.chrBank = 0) ∧
      (∀ st, s.cart.mapper = .shiftReg st → st.shift = 0x10#5 ∧ st.control = cfg.mmc1InitialControl ∧ st.chrBank0 = 0 ∧
        st.chrBank1 = 0 ∧ st.prgBank = 0 ∧ st = st.updateOffsets s.cart.prg.len s.cart.chr.len) ∧
      (∀ st, s.cart.mapper = .scanlineIrq st → st.bankSelect = 0 ∧ st.prgMode = false ∧ st.chrMode = false ∧
        (∀ i : Fin 8, st.regs[i] = 0) ∧ st.irqLatch = 0 ∧ st.irqCounter = 0 ∧ st.irqEnable = false ∧
        st.prgOff = #v[bankOffset 0 0x2000 s.cart.prg.len, bankOffset 1 0x2000 s.cart.prg.len,
          bankOffset (-2) 0x2000 s.cart.prg.len, bankOffset (-1) 0x2000 s.cart.prg.len] ∧
        ∀ i : Fin 8, st.chrOff[i] = 0)

/-- The machine right after reset, in the model's choice of load (log 1, log 5, log 6), is the empty load with its values; it
and every loaded machine meet the invariant: every banked access stays inside its array (R726). -/
def Obligations.ResetAndLoadsMeetTheInvariant : Prop :=
  State.load { Config.spec with undocMode := .noop } [] [] 0 = .ok State.reset ∧ State.reset.cpu.pc = 0 ∧
  State.reset.cart.prg.len = 0x4000 ∧ State.reset.cart.chr.len = 0x2000 ∧ State.reset.cart.mirror = .horizontal ∧
  State.reset.Inv ∧
  (∀ (cfg : Config) (prg chr : List Byte) (sel : Int) (s : State), State.load cfg prg chr sel = .ok s → s.Inv)

/-! ### The invariant -/

/-- Every step keeps the invariant, from every state that has it: legal flags (R37), raster and sprite count, the NMI line as
last computed, a held strobe at index 0, canonical memories inside their sizes, banked addresses inside their arrays, and a
halted machine exactly when a fault is recorded. The state a fault leaves keeps it too. No step changes a program byte (R109) or
a parameter (R741). -/
def Obligations.EveryStepKeepsTheInvariant : Prop :=
  (∀ s t : State, step s = .next t → t.cart.prg = s.cart.prg ∧ t.cfg = s.cfg) ∧
  (∀ s t : State, s.Inv → step s = .next t → t.Inv) ∧
  ∀ (s : State) (r : FaultRecord) (after : State), s.Inv → step s = .fault (.mapperUnmapped r after) → after.Inv
end

