-- ==== Sys2Proof/Laws/Memory.lean ====
section
/-! SUPPORT. The laws of the sparse arrays: read after write, and what every write keeps. -/

namespace Sys2Proof.Machine

@[simp] theorem Sparse.read_nil {w : Nat} (a : Nat) : Sparse.read ([] : Sparse w) a = 0 := rfl

theorem Sparse.wfFrom_mono {w : Nat} : ∀ (m : Sparse w) {lo lo' : Nat}, lo' ≤ lo → Sparse.wfFrom lo m = true →
    Sparse.wfFrom lo' m = true
  | [], _, _, _, _ => rfl
  | (k, x) :: rest, lo, lo', h, hw => by
    simp only [Sparse.wfFrom, Bool.and_eq_true, decide_eq_true_eq] at hw ⊢
    exact ⟨⟨by omega, hw.1.2⟩, hw.2⟩

/-- An index below every listed one reads 0. -/
theorem Sparse.read_low {w : Nat} : ∀ (m : Sparse w) {lo a : Nat}, a < lo → Sparse.wfFrom lo m = true → Sparse.read m a = 0
  | [], _, _, _, _ => rfl
  | (k, x) :: rest, lo, a, h, hw => by
    simp only [Sparse.wfFrom, Bool.and_eq_true, decide_eq_true_eq] at hw
    have hne : a ≠ k := by omega
    simp only [Sparse.read, if_neg hne]
    exact Sparse.read_low rest (lo := k + 1) (by omega) hw.2

theorem Sparse.write_wfFrom {w : Nat} : ∀ (m : Sparse w) {lo : Nat} (a : Nat) (v : BitVec w), lo ≤ a →
    Sparse.wfFrom lo m = true → Sparse.wfFrom lo (Sparse.write m a v) = true
  | [], lo, a, v, h, _ => by
    unfold Sparse.write
    split <;> simp_all [Sparse.wfFrom]
  | (k, x) :: rest, lo, a, v, h, hw => by
    have hw' := hw
    simp only [Sparse.wfFrom, Bool.and_eq_true, decide_eq_true_eq] at hw
    obtain ⟨⟨hk, hx⟩, hr⟩ := hw
    unfold Sparse.write
    split
    · split
      · exact hw'
      · simp only [Sparse.wfFrom, Bool.and_eq_true, decide_eq_true_eq]
        exact ⟨⟨h, ‹_›⟩, ⟨by omega, hx⟩, hr⟩
    · split
      · split
        · exact Sparse.wfFrom_mono rest (by omega) hr
        · subst a
          simp only [Sparse.wfFrom, Bool.and_eq_true, decide_eq_true_eq]
          exact ⟨⟨h, ‹_›⟩, hr⟩
      · simp only [Sparse.wfFrom, Bool.and_eq_true, decide_eq_true_eq]
        exact ⟨⟨hk, hx⟩, Sparse.write_wfFrom rest a v (by omega) hr⟩

/-- A write keeps the canonical form. -/
theorem Sparse.write_wf {w : Nat} (m : Sparse w) (a : Nat) (v : BitVec w) (h : Sparse.wf m = true) :
    Sparse.wf (Sparse.write m a v) = true :=
  Sparse.write_wfFrom m a v (Nat.zero_le _) h

/-- A write below `n` keeps every index below `n`. -/
theorem Sparse.write_below {w : Nat} {n : Nat} : ∀ (m : Sparse w) (a : Nat) (v : BitVec w), a < n →
    Sparse.below n m = true → Sparse.below n (Sparse.write m a v) = true
  | [], a, v, h, _ => by
    unfold Sparse.write
    split <;> simp_all [Sparse.below]
  | (k, x) :: rest, a, v, h, hb => by
    have ih := Sparse.write_below (n := n) rest a v h
    simp only [Sparse.below, List.all_cons, Bool.and_eq_true, decide_eq_true_eq] at hb ih
    unfold Sparse.write
    split <;> split <;>
      simp only [Sparse.below, List.all_cons, Bool.and_eq_true, decide_eq_true_eq]
    · exact hb
    · exact ⟨h, hb⟩
    · split
      · exact hb.2
      · simp only [List.all_cons, Bool.and_eq_true, decide_eq_true_eq]
        exact ⟨h, hb.2⟩
    · exact ⟨hb.1, ih hb.2⟩

/-- A write inside the bounds keeps the bounded canonical form. -/
theorem Sparse.Inv.write {w n : Nat} {m : Sparse w} (h : Sparse.Inv n m) {a : Nat} (ha : a < n) (v : BitVec w) :
    Sparse.Inv n (Sparse.write m a v) :=
  ⟨Sparse.write_wf m a v h.1, Sparse.write_below m a v ha h.2⟩

theorem Sparse.Inv.nil {w n : Nat} : Sparse.Inv n ([] : Sparse w) := ⟨rfl, rfl⟩

theorem Sparse.read_write_same_from {w : Nat} : ∀ (m : Sparse w) {lo : Nat} (a : Nat) (v : BitVec w),
    Sparse.wfFrom lo m = true → Sparse.read (Sparse.write m a v) a = v
  | [], _, a, v, _ => by
    unfold Sparse.write
    split <;> simp_all [Sparse.read]
  | (k, x) :: rest, lo, a, v, hw => by
    simp only [Sparse.wfFrom, Bool.and_eq_true, decide_eq_true_eq] at hw
    obtain ⟨⟨hk, hx⟩, hr⟩ := hw
    unfold Sparse.write
    split
    · split
      · subst v
        have hne : a ≠ k := by omega
        simp only [Sparse.read, if_neg hne]
        exact Sparse.read_low rest (lo := k + 1) (by omega) hr
      · simp [Sparse.read]
    · split
      · subst a
        split
        · subst v; exact Sparse.read_low rest (lo := k + 1) (by omega) hr
        · simp [Sparse.read]
      · have hne : a ≠ k := by omega
        simp only [Sparse.read, if_neg hne]
        exact Sparse.read_write_same_from rest a v hr

/-- A read at the index of the last write gives the value written. -/
theorem Sparse.read_write_same {w : Nat} {m : Sparse w} (h : Sparse.wf m = true) (a : Nat) (v : BitVec w) :
    Sparse.read (Sparse.write m a v) a = v :=
  Sparse.read_write_same_from m a v h

/-- A write leaves every other index alone. -/
theorem Sparse.read_write_other {w : Nat} : ∀ (m : Sparse w) {a b : Nat} (v : BitVec w), b ≠ a →
    Sparse.read (Sparse.write m a v) b = Sparse.read m b
  | [], a, b, v, h => by
    unfold Sparse.write
    split <;> simp_all [Sparse.read]
  | (k, x) :: rest, a, b, v, h => by
    unfold Sparse.write
    split
    · split
      · rfl
      · simp [Sparse.read, h]
    · split
      · subst a
        split <;> simp [Sparse.read, h]
      · simp only [Sparse.read]
        split
        · rfl
        · exact Sparse.read_write_other rest v h

/-- The array of a list of bytes is canonical, inside the list's length. -/
theorem Memory.ofBytesFrom_wf : ∀ (bytes : List Byte) (base : Nat), Sparse.wfFrom base (Memory.ofBytesFrom base bytes) = true
  | [], _ => rfl
  | b :: rest, base => by
    have ih := Memory.ofBytesFrom_wf rest (base + 1)
    unfold Memory.ofBytesFrom
    split
    · exact Sparse.wfFrom_mono _ (Nat.le_succ _) ih
    · simp only [Sparse.wfFrom, Bool.and_eq_true, decide_eq_true_eq]
      exact ⟨⟨Nat.le_refl _, ‹_›⟩, ih⟩

theorem Memory.ofBytesFrom_below {n : Nat} : ∀ (bytes : List Byte) (base : Nat), base + bytes.length ≤ n →
    Sparse.below n (Memory.ofBytesFrom base bytes) = true
  | [], _, _ => rfl
  | b :: rest, base, h => by
    simp only [List.length_cons] at h
    have ih := Memory.ofBytesFrom_below (n := n) rest (base + 1) (by omega)
    unfold Memory.ofBytesFrom
    split
    · exact ih
    · simp only [Sparse.below, List.all_cons, Bool.and_eq_true, decide_eq_true_eq]
      exact ⟨by omega, ih⟩

/-- A byte of the array of a list of bytes is the list's, and 0 outside it. -/
theorem Memory.read_ofBytesFrom : ∀ (bytes : List Byte) (base a : Nat),
    Sparse.read (Memory.ofBytesFrom base bytes) a = if a < base then 0 else bytes.getD (a - base) 0
  | [], base, a => by simp [Memory.ofBytesFrom]
  | b :: rest, base, a => by
    have ih := Memory.read_ofBytesFrom rest (base + 1) a
    unfold Memory.ofBytesFrom
    rcases Nat.lt_trichotomy a base with h | h | h
    · have hn : a ≠ base := by omega
      split <;> simp [Sparse.read, ih, Nat.lt_succ_of_lt h, hn]
    · subst h
      split <;> simp_all [Sparse.read]
    · have hb : ¬ a < base + 1 := by omega
      have hl : ¬ a < base := by omega
      have hn : a ≠ base := by omega
      have hd : a - base = (a - (base + 1)) + 1 := by omega
      split <;> simp [Sparse.read, ih, hb, hn, hd]

theorem Memory.ofBytes_inv (bytes : List Byte) {n : Nat} (h : bytes.length ≤ n) : Sparse.Inv n (Memory.ofBytes bytes) :=
  ⟨Memory.ofBytesFrom_wf bytes 0, Memory.ofBytesFrom_below bytes 0 (by simpa using h)⟩

theorem Memory.read_ofBytes (bytes : List Byte) (a : Nat) : Sparse.read (Memory.ofBytes bytes) a = bytes.getD a 0 := by
  simp [Memory.ofBytes, Memory.read_ofBytesFrom]

end Sys2Proof.Machine
end

