-- ==== Sys2Proof/Laws/State.lean ====
section
/-! SUPPORT. One lemma per part of the state and update: what each named update of the state writes and what it leaves. -/

namespace Sys2Proof.Machine

@[simp] theorem State.setA_cpu (s : State) (v : Byte) : (s.setA v).cpu = { s.cpu with a := v } := rfl
@[simp] theorem State.setA_ram (s : State) (v : Byte) : (s.setA v).ram = s.ram := rfl
@[simp] theorem State.setA_port1 (s : State) (v : Byte) : (s.setA v).port1 = s.port1 := rfl
@[simp] theorem State.setA_port2 (s : State) (v : Byte) : (s.setA v).port2 = s.port2 := rfl
@[simp] theorem State.setA_ppu (s : State) (v : Byte) : (s.setA v).ppu = s.ppu := rfl
@[simp] theorem State.setA_cart (s : State) (v : Byte) : (s.setA v).cart = s.cart := rfl
@[simp] theorem State.setA_halted (s : State) (v : Byte) : (s.setA v).halted = s.halted := rfl
@[simp] theorem State.setA_faultRecord (s : State) (v : Byte) : (s.setA v).faultRecord = s.faultRecord := rfl
@[simp] theorem State.setA_cfg (s : State) (v : Byte) : (s.setA v).cfg = s.cfg := rfl

@[simp] theorem State.setX_cpu (s : State) (v : Byte) : (s.setX v).cpu = { s.cpu with x := v } := rfl
@[simp] theorem State.setX_ram (s : State) (v : Byte) : (s.setX v).ram = s.ram := rfl
@[simp] theorem State.setX_port1 (s : State) (v : Byte) : (s.setX v).port1 = s.port1 := rfl
@[simp] theorem State.setX_port2 (s : State) (v : Byte) : (s.setX v).port2 = s.port2 := rfl
@[simp] theorem State.setX_ppu (s : State) (v : Byte) : (s.setX v).ppu = s.ppu := rfl
@[simp] theorem State.setX_cart (s : State) (v : Byte) : (s.setX v).cart = s.cart := rfl
@[simp] theorem State.setX_halted (s : State) (v : Byte) : (s.setX v).halted = s.halted := rfl
@[simp] theorem State.setX_faultRecord (s : State) (v : Byte) : (s.setX v).faultRecord = s.faultRecord := rfl
@[simp] theorem State.setX_cfg (s : State) (v : Byte) : (s.setX v).cfg = s.cfg := rfl

@[simp] theorem State.setY_cpu (s : State) (v : Byte) : (s.setY v).cpu = { s.cpu with y := v } := rfl
@[simp] theorem State.setY_ram (s : State) (v : Byte) : (s.setY v).ram = s.ram := rfl
@[simp] theorem State.setY_port1 (s : State) (v : Byte) : (s.setY v).port1 = s.port1 := rfl
@[simp] theorem State.setY_port2 (s : State) (v : Byte) : (s.setY v).port2 = s.port2 := rfl
@[simp] theorem State.setY_ppu (s : State) (v : Byte) : (s.setY v).ppu = s.ppu := rfl
@[simp] theorem State.setY_cart (s : State) (v : Byte) : (s.setY v).cart = s.cart := rfl
@[simp] theorem State.setY_halted (s : State) (v : Byte) : (s.setY v).halted = s.halted := rfl
@[simp] theorem State.setY_faultRecord (s : State) (v : Byte) : (s.setY v).faultRecord = s.faultRecord := rfl
@[simp] theorem State.setY_cfg (s : State) (v : Byte) : (s.setY v).cfg = s.cfg := rfl

@[simp] theorem State.setSp_cpu (s : State) (v : Byte) : (s.setSp v).cpu = { s.cpu with sp := v } := rfl
@[simp] theorem State.setSp_ram (s : State) (v : Byte) : (s.setSp v).ram = s.ram := rfl
@[simp] theorem State.setSp_port1 (s : State) (v : Byte) : (s.setSp v).port1 = s.port1 := rfl
@[simp] theorem State.setSp_port2 (s : State) (v : Byte) : (s.setSp v).port2 = s.port2 := rfl
@[simp] theorem State.setSp_ppu (s : State) (v : Byte) : (s.setSp v).ppu = s.ppu := rfl
@[simp] theorem State.setSp_cart (s : State) (v : Byte) : (s.setSp v).cart = s.cart := rfl
@[simp] theorem State.setSp_halted (s : State) (v : Byte) : (s.setSp v).halted = s.halted := rfl
@[simp] theorem State.setSp_faultRecord (s : State) (v : Byte) : (s.setSp v).faultRecord = s.faultRecord := rfl
@[simp] theorem State.setSp_cfg (s : State) (v : Byte) : (s.setSp v).cfg = s.cfg := rfl

@[simp] theorem State.setPc_cpu (s : State) (v : Word) : (s.setPc v).cpu = { s.cpu with pc := v } := rfl
@[simp] theorem State.setPc_ram (s : State) (v : Word) : (s.setPc v).ram = s.ram := rfl
@[simp] theorem State.setPc_port1 (s : State) (v : Word) : (s.setPc v).port1 = s.port1 := rfl
@[simp] theorem State.setPc_port2 (s : State) (v : Word) : (s.setPc v).port2 = s.port2 := rfl
@[simp] theorem State.setPc_ppu (s : State) (v : Word) : (s.setPc v).ppu = s.ppu := rfl
@[simp] theorem State.setPc_cart (s : State) (v : Word) : (s.setPc v).cart = s.cart := rfl
@[simp] theorem State.setPc_halted (s : State) (v : Word) : (s.setPc v).halted = s.halted := rfl
@[simp] theorem State.setPc_faultRecord (s : State) (v : Word) : (s.setPc v).faultRecord = s.faultRecord := rfl
@[simp] theorem State.setPc_cfg (s : State) (v : Word) : (s.setPc v).cfg = s.cfg := rfl

@[simp] theorem State.setFlags_cpu (s : State) (f : Flags) : (s.setFlags f).cpu = { s.cpu with flags := f } := rfl
@[simp] theorem State.setFlags_ram (s : State) (f : Flags) : (s.setFlags f).ram = s.ram := rfl
@[simp] theorem State.setFlags_port1 (s : State) (f : Flags) : (s.setFlags f).port1 = s.port1 := rfl
@[simp] theorem State.setFlags_port2 (s : State) (f : Flags) : (s.setFlags f).port2 = s.port2 := rfl
@[simp] theorem State.setFlags_ppu (s : State) (f : Flags) : (s.setFlags f).ppu = s.ppu := rfl
@[simp] theorem State.setFlags_cart (s : State) (f : Flags) : (s.setFlags f).cart = s.cart := rfl
@[simp] theorem State.setFlags_halted (s : State) (f : Flags) : (s.setFlags f).halted = s.halted := rfl
@[simp] theorem State.setFlags_faultRecord (s : State) (f : Flags) : (s.setFlags f).faultRecord = s.faultRecord := rfl
@[simp] theorem State.setFlags_cfg (s : State) (f : Flags) : (s.setFlags f).cfg = s.cfg := rfl

@[simp] theorem State.setZN_cpu (s : State) (v : Byte) : (s.setZN v).cpu = { s.cpu with flags := s.cpu.flags.setZN v } := rfl
@[simp] theorem State.setZN_ram (s : State) (v : Byte) : (s.setZN v).ram = s.ram := rfl
@[simp] theorem State.setZN_port1 (s : State) (v : Byte) : (s.setZN v).port1 = s.port1 := rfl
@[simp] theorem State.setZN_port2 (s : State) (v : Byte) : (s.setZN v).port2 = s.port2 := rfl
@[simp] theorem State.setZN_ppu (s : State) (v : Byte) : (s.setZN v).ppu = s.ppu := rfl
@[simp] theorem State.setZN_cart (s : State) (v : Byte) : (s.setZN v).cart = s.cart := rfl
@[simp] theorem State.setZN_halted (s : State) (v : Byte) : (s.setZN v).halted = s.halted := rfl
@[simp] theorem State.setZN_faultRecord (s : State) (v : Byte) : (s.setZN v).faultRecord = s.faultRecord := rfl
@[simp] theorem State.setZN_cfg (s : State) (v : Byte) : (s.setZN v).cfg = s.cfg := rfl

@[simp] theorem State.addCycles_cpu (s : State) (n : Nat) : (s.addCycles n).cpu = { s.cpu with cycles := s.cpu.cycles + n } := rfl
@[simp] theorem State.addCycles_ram (s : State) (n : Nat) : (s.addCycles n).ram = s.ram := rfl
@[simp] theorem State.addCycles_port1 (s : State) (n : Nat) : (s.addCycles n).port1 = s.port1 := rfl
@[simp] theorem State.addCycles_port2 (s : State) (n : Nat) : (s.addCycles n).port2 = s.port2 := rfl
@[simp] theorem State.addCycles_ppu (s : State) (n : Nat) : (s.addCycles n).ppu = s.ppu := rfl
@[simp] theorem State.addCycles_cart (s : State) (n : Nat) : (s.addCycles n).cart = s.cart := rfl
@[simp] theorem State.addCycles_halted (s : State) (n : Nat) : (s.addCycles n).halted = s.halted := rfl
@[simp] theorem State.addCycles_faultRecord (s : State) (n : Nat) : (s.addCycles n).faultRecord = s.faultRecord := rfl
@[simp] theorem State.addCycles_cfg (s : State) (n : Nat) : (s.addCycles n).cfg = s.cfg := rfl

@[simp] theorem State.push_cpu (s : State) (v : Byte) : (s.push v).cpu = { s.cpu with sp := s.cpu.sp - 1 } := rfl
@[simp] theorem State.push_ram (s : State) (v : Byte) : (s.push v).ram = Sparse.write s.ram (ramIndex (stackAddress s.cpu.sp)) v := rfl
@[simp] theorem State.push_port1 (s : State) (v : Byte) : (s.push v).port1 = s.port1 := rfl
@[simp] theorem State.push_port2 (s : State) (v : Byte) : (s.push v).port2 = s.port2 := rfl
@[simp] theorem State.push_ppu (s : State) (v : Byte) : (s.push v).ppu = s.ppu := rfl
@[simp] theorem State.push_cart (s : State) (v : Byte) : (s.push v).cart = s.cart := rfl
@[simp] theorem State.push_halted (s : State) (v : Byte) : (s.push v).halted = s.halted := rfl
@[simp] theorem State.push_faultRecord (s : State) (v : Byte) : (s.push v).faultRecord = s.faultRecord := rfl
@[simp] theorem State.push_cfg (s : State) (v : Byte) : (s.push v).cfg = s.cfg := rfl

@[simp] theorem State.afterPull_cpu (s : State) : s.afterPull.cpu = { s.cpu with sp := s.cpu.sp + 1 } := rfl
@[simp] theorem State.afterPull_ram (s : State) : s.afterPull.ram = s.ram := rfl
@[simp] theorem State.afterPull_port1 (s : State) : s.afterPull.port1 = s.port1 := rfl
@[simp] theorem State.afterPull_port2 (s : State) : s.afterPull.port2 = s.port2 := rfl
@[simp] theorem State.afterPull_ppu (s : State) : s.afterPull.ppu = s.ppu := rfl
@[simp] theorem State.afterPull_cart (s : State) : s.afterPull.cart = s.cart := rfl
@[simp] theorem State.afterPull_halted (s : State) : s.afterPull.halted = s.halted := rfl
@[simp] theorem State.afterPull_faultRecord (s : State) : s.afterPull.faultRecord = s.faultRecord := rfl
@[simp] theorem State.afterPull_cfg (s : State) : s.afterPull.cfg = s.cfg := rfl

@[simp] theorem State.writeRam_cpu (s : State) (a : Word) (v : Byte) : (s.writeRam a v).cpu = s.cpu := rfl
@[simp] theorem State.writeRam_ram (s : State) (a : Word) (v : Byte) : (s.writeRam a v).ram = Sparse.write s.ram (ramIndex a) v := rfl
@[simp] theorem State.writeRam_port1 (s : State) (a : Word) (v : Byte) : (s.writeRam a v).port1 = s.port1 := rfl
@[simp] theorem State.writeRam_port2 (s : State) (a : Word) (v : Byte) : (s.writeRam a v).port2 = s.port2 := rfl
@[simp] theorem State.writeRam_ppu (s : State) (a : Word) (v : Byte) : (s.writeRam a v).ppu = s.ppu := rfl
@[simp] theorem State.writeRam_cart (s : State) (a : Word) (v : Byte) : (s.writeRam a v).cart = s.cart := rfl
@[simp] theorem State.writeRam_halted (s : State) (a : Word) (v : Byte) : (s.writeRam a v).halted = s.halted := rfl
@[simp] theorem State.writeRam_faultRecord (s : State) (a : Word) (v : Byte) : (s.writeRam a v).faultRecord = s.faultRecord := rfl
@[simp] theorem State.writeRam_cfg (s : State) (a : Word) (v : Byte) : (s.writeRam a v).cfg = s.cfg := rfl

@[simp] theorem State.halt_cpu (s : State) (r : FaultRecord) : (s.halt r).cpu = s.cpu := rfl
@[simp] theorem State.halt_ram (s : State) (r : FaultRecord) : (s.halt r).ram = s.ram := rfl
@[simp] theorem State.halt_port1 (s : State) (r : FaultRecord) : (s.halt r).port1 = s.port1 := rfl
@[simp] theorem State.halt_port2 (s : State) (r : FaultRecord) : (s.halt r).port2 = s.port2 := rfl
@[simp] theorem State.halt_ppu (s : State) (r : FaultRecord) : (s.halt r).ppu = s.ppu := rfl
@[simp] theorem State.halt_cart (s : State) (r : FaultRecord) : (s.halt r).cart = s.cart := rfl
@[simp] theorem State.halt_halted (s : State) (r : FaultRecord) : (s.halt r).halted = true := rfl
@[simp] theorem State.halt_faultRecord (s : State) (r : FaultRecord) : (s.halt r).faultRecord = some r := rfl
@[simp] theorem State.halt_cfg (s : State) (r : FaultRecord) : (s.halt r).cfg = s.cfg := rfl

@[simp] theorem State.withPcCycles_cpu (s : State) (pc : Word) (n : Nat) : (s.withPcCycles pc n).cpu = { s.cpu with pc := pc, cycles := n } := rfl
@[simp] theorem State.withPcCycles_ram (s : State) (pc : Word) (n : Nat) : (s.withPcCycles pc n).ram = s.ram := rfl
@[simp] theorem State.withPcCycles_port1 (s : State) (pc : Word) (n : Nat) : (s.withPcCycles pc n).port1 = s.port1 := rfl
@[simp] theorem State.withPcCycles_port2 (s : State) (pc : Word) (n : Nat) : (s.withPcCycles pc n).port2 = s.port2 := rfl
@[simp] theorem State.withPcCycles_ppu (s : State) (pc : Word) (n : Nat) : (s.withPcCycles pc n).ppu = s.ppu := rfl
@[simp] theorem State.withPcCycles_cart (s : State) (pc : Word) (n : Nat) : (s.withPcCycles pc n).cart = s.cart := rfl
@[simp] theorem State.withPcCycles_halted (s : State) (pc : Word) (n : Nat) : (s.withPcCycles pc n).halted = s.halted := rfl
@[simp] theorem State.withPcCycles_faultRecord (s : State) (pc : Word) (n : Nat) : (s.withPcCycles pc n).faultRecord = s.faultRecord := rfl
@[simp] theorem State.withPcCycles_cfg (s : State) (pc : Word) (n : Nat) : (s.withPcCycles pc n).cfg = s.cfg := rfl

@[simp] theorem State.advanced_ram (s : State) (i : Instr) : (s.advanced i).ram = s.ram := rfl
@[simp] theorem State.advanced_port1 (s : State) (i : Instr) : (s.advanced i).port1 = s.port1 := rfl
@[simp] theorem State.advanced_port2 (s : State) (i : Instr) : (s.advanced i).port2 = s.port2 := rfl
@[simp] theorem State.advanced_ppu (s : State) (i : Instr) : (s.advanced i).ppu = s.ppu := rfl
@[simp] theorem State.advanced_cart (s : State) (i : Instr) : (s.advanced i).cart = s.cart := rfl
@[simp] theorem State.advanced_halted (s : State) (i : Instr) : (s.advanced i).halted = s.halted := rfl
@[simp] theorem State.advanced_faultRecord (s : State) (i : Instr) : (s.advanced i).faultRecord = s.faultRecord := rfl
@[simp] theorem State.advanced_cfg (s : State) (i : Instr) : (s.advanced i).cfg = s.cfg := rfl

@[simp] theorem State.advanced_cpu_a (s : State) (i : Instr) : (s.advanced i).cpu.a = s.cpu.a := rfl
@[simp] theorem State.advanced_cpu_x (s : State) (i : Instr) : (s.advanced i).cpu.x = s.cpu.x := rfl
@[simp] theorem State.advanced_cpu_y (s : State) (i : Instr) : (s.advanced i).cpu.y = s.cpu.y := rfl
@[simp] theorem State.advanced_cpu_sp (s : State) (i : Instr) : (s.advanced i).cpu.sp = s.cpu.sp := rfl
@[simp] theorem State.advanced_cpu_flags (s : State) (i : Instr) : (s.advanced i).cpu.flags = s.cpu.flags := rfl
@[simp] theorem State.advanced_cpu_latch (s : State) (i : Instr) : (s.advanced i).cpu.latch = s.cpu.latch := rfl
@[simp] theorem State.advanced_cpu_stall (s : State) (i : Instr) : (s.advanced i).cpu.stall = s.cpu.stall := rfl

end Sys2Proof.Machine
end

