-- ==== Sys2Proof/Laws/Cartridge.lean ====
section
/-! SUPPORT. Banked accesses stay inside their arrays, and every cartridge operation keeps the cartridge's invariant. -/

namespace Sys2Proof.Machine

/-- A bank offset leaves room for a whole window (70_reset_and_hazards.md R726). -/
theorem bankOffset_room (i : Int) {size len : Nat} (hs : 0 < size) (hl : 0 < len) (hd : size ∣ len) :
    bankOffset i size len + size ≤ len := by
  obtain ⟨n, rfl⟩ := hd
  have hn : 0 < n := Nat.pos_of_mul_pos_left hl
  unfold bankOffset
  simp only [Nat.mul_div_cancel_left n hs]
  generalize (if i ≥ 0x80 then i - 0x100 else i) = k
  have h0 : (0 : Int) ≤ k % (n : Int) := Int.emod_nonneg _ (by omega)
  have h1 : k % (n : Int) < n := Int.emod_lt_of_pos _ (by omega)
  have h2 : (k % (n : Int)).toNat + 1 ≤ n := by omega
  calc (k % (n : Int)).toNat * size + size = ((k % (n : Int)).toNat + 1) * size := by ring
    _ ≤ n * size := Nat.mul_le_mul_right _ h2
    _ = size * n := Nat.mul_comm _ _

theorem vector_getD_mem {α : Type} {n : Nat} (v : Vector α n) (P : α → Prop) (h : ∀ i (hi : i < n), P v[i]) {k : Nat}
    (hk : k < n) (d : α) : P (v[k]?.getD d) := by
  simpa [Vector.getElem?_eq_getElem hk] using h k hk

theorem ShiftReg.prgOffsets_room (st : ShiftReg) {len : Nat} (hl : 0 < len) (hd : 0x4000 ∣ len) :
    ∀ i (hi : i < 2), (st.prgOffsets len)[i] + 0x4000 ≤ len := by
  have hb := fun k => bankOffset_room k (size := 0x4000) (by decide) hl hd
  have hz : 0 + 0x4000 ≤ len := by simpa using Nat.le_of_dvd hl hd
  intro i hi
  unfold ShiftReg.prgOffsets
  have : i = 0 ∨ i = 1 := by omega
  rcases this with rfl | rfl <;> (dsimp only; split <;> first | exact hb _ | exact hz)

theorem ShiftReg.chrOffsets_room (st : ShiftReg) {len : Nat} (hl : 0 < len) (hd : 0x1000 ∣ len) :
    ∀ i (hi : i < 2), (st.chrOffsets len)[i] + 0x1000 ≤ len := by
  have hb := fun k => bankOffset_room k (size := 0x1000) (by decide) hl hd
  intro i hi
  unfold ShiftReg.chrOffsets
  have : i = 0 ∨ i = 1 := by omega
  rcases this with rfl | rfl <;> (dsimp only; split <;> exact hb _)

theorem ScanlineIrq.prgOffsets_room (st : ScanlineIrq) {len : Nat} (hl : 0 < len) (hd : 0x2000 ∣ len) :
    ∀ i (hi : i < 4), (st.prgOffsets len)[i] + 0x2000 ≤ len := by
  have hb := fun k => bankOffset_room k (size := 0x2000) (by decide) hl hd
  intro i hi
  unfold ScanlineIrq.prgOffsets
  have : i = 0 ∨ i = 1 ∨ i = 2 ∨ i = 3 := by omega
  rcases this with rfl | rfl | rfl | rfl <;> (dsimp only; split <;> exact hb _)

theorem ScanlineIrq.chrOffsets_room (st : ScanlineIrq) {len : Nat} (hl : 0 < len) (hd : 0x400 ∣ len) :
    ∀ i (hi : i < 8), (st.chrOffsets len)[i] + 0x400 ≤ len := by
  have hb := fun k => bankOffset_room k (size := 0x400) (by decide) hl hd
  intro i hi
  unfold ScanlineIrq.chrOffsets
  have : i = 0 ∨ i = 1 ∨ i = 2 ∨ i = 3 ∨ i = 4 ∨ i = 5 ∨ i = 6 ∨ i = 7 := by omega
  rcases this with rfl | rfl | rfl | rfl | rfl | rfl | rfl | rfl <;> (dsimp only; split <;> exact hb _)

/-- What decides where banked accesses go: every stored window offset leaves room for its window. -/
def Mapper.Room (prgLen chrLen : Nat) : Mapper → Prop
  | .fixedChr _ => True
  | .shiftReg st => (∀ i (hi : i < 2), st.prgOff[i] + 0x4000 ≤ prgLen) ∧ ∀ i (hi : i < 2), st.chrOff[i] + 0x1000 ≤ chrLen
  | .scanlineIrq st => (∀ i (hi : i < 4), st.prgOff[i] + 0x2000 ≤ prgLen) ∧ ∀ i (hi : i < 8), st.chrOff[i] + 0x400 ≤ chrLen

theorem Cartridge.prgAddr_lt {c : Cartridge} (hu : 0 < c.prg.len ∧ c.mapper.prgUnit ∣ c.prg.len)
    (hr : c.mapper.Room c.prg.len c.chr.len) {a : Nat} (h1 : 0x8000 ≤ a) (h2 : a < 0x10000) : c.prgAddr a < c.prg.len := by
  unfold Cartridge.prgAddr
  cases hm : c.mapper with
  | fixedChr st =>
    rw [hm] at hu
    have h16 : 0x4000 ≤ c.prg.len := Nat.le_of_dvd hu.1 hu.2
    obtain ⟨n, hn⟩ : 0x4000 ∣ c.prg.len := hu.2
    have : c.prg.len / 0x4000 = n := by omega
    simp only [this]
    split <;> omega
  | shiftReg st =>
    rw [hm] at hr
    have := vector_getD_mem st.prgOff (fun x => x + 0x4000 ≤ c.prg.len) hr.1 (k := (a - 0x8000) / 0x4000) (by omega) 0
    simp only at this ⊢
    omega
  | scanlineIrq st =>
    rw [hm] at hr
    have := vector_getD_mem st.prgOff (fun x => x + 0x2000 ≤ c.prg.len) hr.1 (k := (a - 0x8000) / 0x2000) (by omega) 0
    simp only at this ⊢
    omega

theorem Cartridge.chrAddr_lt {c : Cartridge} (hu : 0 < c.chr.len ∧ 0x2000 ∣ c.chr.len)
    (hr : c.mapper.Room c.prg.len c.chr.len) {a : Nat} (h : a < 0x2000) : c.chrAddr a < c.chr.len := by
  unfold Cartridge.chrAddr
  cases hm : c.mapper with
  | fixedChr st =>
    obtain ⟨n, hn⟩ := hu.2
    have h1 : c.chr.len / 0x2000 = n := by omega
    have h2 := Nat.mod_lt st.chrBank.toNat (show n > 0 by omega)
    simp only [h1]
    omega
  | shiftReg st =>
    rw [hm] at hr
    have := vector_getD_mem st.chrOff (fun x => x + 0x1000 ≤ c.chr.len) hr.2 (k := a / 0x1000) (by omega) 0
    simp only at this ⊢
    omega
  | scanlineIrq st =>
    rw [hm] at hr
    have := vector_getD_mem st.chrOff (fun x => x + 0x400 ≤ c.chr.len) hr.2 (k := a / 0x400) (by omega) 0
    simp only at this ⊢
    omega

/-- The invariant from the units, the room of the windows, and the arrays. -/
theorem Cartridge.Inv.ofRoom {c : Cartridge} (hp : 0 < c.prg.len ∧ c.mapper.prgUnit ∣ c.prg.len)
    (hc : 0 < c.chr.len ∧ 0x2000 ∣ c.chr.len) (hr : c.mapper.Room c.prg.len c.chr.len)
    (h1 : Sparse.Inv c.prg.len c.prg.cells) (h2 : Sparse.Inv c.chr.len c.chr.cells) (h3 : Sparse.Inv 0x2000 c.sram) : c.Inv :=
  ⟨hp, hc, fun _ => Cartridge.prgAddr_lt hp hr, fun _ => Cartridge.chrAddr_lt hc hr, h1, h2, h3⟩

/-- A mapper of the same kind whose windows address as before keeps the invariant. -/
theorem Cartridge.Inv.sameBanks {c c' : Cartridge} (h : c.Inv) (hu : c'.mapper.prgUnit = c.mapper.prgUnit)
    (hp : ∀ a, c'.prgAddr a = c.prgAddr a) (hc : ∀ a, c'.chrAddr a = c.chrAddr a) (hprg : c'.prg = c.prg)
    (hchr : c'.chr = c.chr) (hs : c'.sram = c.sram) : c'.Inv :=
  ⟨by rw [hprg, hu]; exact h.prgUnit, by rw [hchr]; exact h.chrUnit,
   fun a h1 h2 => by rw [hprg, hp]; exact h.prgInRange a h1 h2, fun a h1 => by rw [hchr, hc]; exact h.chrInRange a h1,
   by rw [hprg]; exact h.prg, by rw [hchr]; exact h.chr, by rw [hs]; exact h.sram⟩

theorem ShiftReg.updateOffsets_room (st : ShiftReg) {p c : Nat} (hp : 0 < p ∧ 0x4000 ∣ p) (hc : 0 < c ∧ 0x2000 ∣ c) :
    (Mapper.shiftReg (st.updateOffsets p c)).Room p c :=
  ⟨st.prgOffsets_room hp.1 hp.2, st.chrOffsets_room hc.1 (Nat.dvd_trans (by decide) hc.2)⟩

theorem ScanlineIrq.updateOffsets_room (st : ScanlineIrq) {p c : Nat} (hp : 0 < p ∧ 0x2000 ∣ p) (hc : 0 < c ∧ 0x2000 ∣ c) :
    (Mapper.scanlineIrq (st.updateOffsets p c)).Room p c :=
  ⟨st.prgOffsets_room hp.1 hp.2, st.chrOffsets_room hc.1 (Nat.dvd_trans (by decide) hc.2)⟩

theorem Cartridge.Inv.withShift {c : Cartridge} (h : c.Inv) {st0 : ShiftReg} (hm : c.mapper = .shiftReg st0) (st : ShiftReg)
    (m : Mirroring) :
    Cartridge.Inv { c with mapper := .shiftReg (st.updateOffsets c.prg.len c.chr.len), mirror := m } :=
  Cartridge.Inv.ofRoom (by have := h.prgUnit; rw [hm] at this; exact this) h.chrUnit
    (ShiftReg.updateOffsets_room st (by have := h.prgUnit; rw [hm] at this; exact this) h.chrUnit) h.prg h.chr h.sram

theorem Cartridge.Inv.withScanline {c : Cartridge} (h : c.Inv) {st0 : ScanlineIrq} (hm : c.mapper = .scanlineIrq st0)
    (st : ScanlineIrq) (m : Mirroring) :
    Cartridge.Inv { c with mapper := .scanlineIrq (st.updateOffsets c.prg.len c.chr.len), mirror := m } :=
  Cartridge.Inv.ofRoom (by have := h.prgUnit; rw [hm] at this; exact this) h.chrUnit
    (ScanlineIrq.updateOffsets_room st (by have := h.prgUnit; rw [hm] at this; exact this) h.chrUnit) h.prg h.chr h.sram

/-- A register write keeps the invariant. -/
theorem Cartridge.Inv.registerWrite {c : Cartridge} (h : c.Inv) (a : Nat) (v : Byte) : (c.registerWrite a v).Inv := by
  unfold Cartridge.registerWrite
  split
  · rename_i st hm
    exact Cartridge.Inv.ofRoom (by have := h.prgUnit; rw [hm] at this; exact this) h.chrUnit trivial h.prg h.chr h.sram
  · rename_i st hm
    unfold Cartridge.shiftWrite
    split
    · exact h.withShift hm _ _
    · dsimp only
      split
      · unfold Cartridge.dispatchShift
        split
        · exact h.withShift hm _ _
        · split
          · exact h.withShift hm _ _
          · split <;> exact h.withShift hm _ _
      · exact h.sameBanks (by rw [hm]; rfl) (fun a => by simp [Cartridge.prgAddr, hm])
          (fun a => by simp [Cartridge.chrAddr, hm]) rfl rfl rfl
  · rename_i st hm
    exact h.withScanline hm _ _

/-- A pattern write keeps the invariant. -/
theorem Cartridge.Inv.chrWrite {c : Cartridge} (h : c.Inv) {a : Nat} (ha : a < 0x2000) (v : Byte) : (c.chrWrite a v).Inv :=
  ⟨h.prgUnit, h.chrUnit, h.prgInRange, h.chrInRange, h.prg, h.chr.write (h.chrInRange a ha) v, h.sram⟩

/-- A save RAM write keeps the invariant. -/
theorem Cartridge.Inv.sramWrite {c : Cartridge} (h : c.Inv) {a : Nat} (ha : a < 0x2000) (v : Byte) :
    Cartridge.Inv { c with sram := Sparse.write c.sram a v } :=
  ⟨h.prgUnit, h.chrUnit, h.prgInRange, h.chrInRange, h.prg, h.chr, h.sram.write ha v⟩

/-- The counter clock keeps the invariant. -/
theorem Cartridge.Inv.clocked {c : Cartridge} (h : c.Inv) {st : ScanlineIrq} (hm : c.mapper = .scanlineIrq st) :
    Cartridge.Inv { c with mapper := .scanlineIrq st.clocked } :=
  h.sameBanks (by rw [hm]; rfl) (fun a => by simp [Cartridge.prgAddr, hm, ScanlineIrq.clocked])
    (fun a => by simp [Cartridge.chrAddr, hm, ScanlineIrq.clocked]) rfl rfl rfl

/-- A mapper read answers at every address from 0x6000 and below 0x2000 (62_mappers.md R652). -/
theorem Cartridge.read_some (c : Cartridge) {a : Nat} (h : a < 0x2000 ∨ 0x6000 ≤ a) : ∃ b, c.read a = some b := by
  unfold Cartridge.read
  split
  · exact ⟨_, rfl⟩
  · split
    · exact ⟨_, rfl⟩
    · rw [if_pos (by omega)]; exact ⟨_, rfl⟩

theorem Cartridge.read_none (c : Cartridge) {a : Nat} (h1 : 0x2000 ≤ a) (h2 : a < 0x6000) : c.read a = none := by
  unfold Cartridge.read
  rw [if_neg (by omega), if_neg (by omega), if_neg (by omega)]

theorem Cartridge.write_some (c : Cartridge) {a : Nat} (v : Byte) (h : a < 0x2000 ∨ 0x6000 ≤ a) :
    ∃ c', c.write a v = some c' := by
  unfold Cartridge.write
  split
  · exact ⟨_, rfl⟩
  · split
    · exact ⟨_, rfl⟩
    · rw [if_pos (by omega)]; exact ⟨_, rfl⟩

theorem Cartridge.write_none (c : Cartridge) {a : Nat} (v : Byte) (h1 : 0x2000 ≤ a) (h2 : a < 0x6000) : c.write a v = none := by
  unfold Cartridge.write
  rw [if_neg (by omega), if_neg (by omega), if_neg (by omega)]

/-- A mapper write from processor space keeps the invariant. -/
theorem Cartridge.Inv.write {c c' : Cartridge} (h : c.Inv) {a : Nat} {v : Byte} (hw : c.write a v = some c') : c'.Inv := by
  unfold Cartridge.write at hw
  split at hw
  · cases hw; exact h.chrWrite (by omega) v
  · split at hw
    · cases hw; exact h.registerWrite a v
    · split at hw
      · cases hw; exact h.sramWrite (by omega) v
      · cases hw

/-- A write from processor space never changes PRG (20_memory.md R109). -/
theorem Cartridge.registerWrite_prg (c : Cartridge) (a : Nat) (v : Byte) : (c.registerWrite a v).prg = c.prg := by
  unfold Cartridge.registerWrite
  split
  · rfl
  · unfold Cartridge.shiftWrite Cartridge.writeControl
    split
    · rfl
    · dsimp only
      split
      · unfold Cartridge.dispatchShift Cartridge.writeControl
        split
        · rfl
        · split
          · rfl
          · split <;> rfl
      · rfl
  · rfl

theorem Cartridge.write_prg {c c' : Cartridge} {a : Nat} {v : Byte} (h : c.write a v = some c') : c'.prg = c.prg := by
  unfold Cartridge.write at h
  split at h
  · cases h; rfl
  · split at h
    · cases h; exact c.registerWrite_prg a v
    · split at h
      · cases h; rfl
      · cases h

end Sys2Proof.Machine
end

