-- ==== Sys2Proof/Laws/Picture.lean ====
section
/-! SUPPORT. The picture tables as bits; what the picture unit's registers and each part of its step change, and that they keep the
invariant. -/

namespace Sys2Proof.Machine

/-! ### The tables -/

/-- A layout gives every bit of the byte to exactly one field (61_ppu.md R561 to R563). -/
theorem layouts_partition_the_byte :
    ∀ fields ∈ [ctrlLayout.map Prod.snd, maskLayout.map Prod.snd, statusLayout.map Prod.snd], ∀ k, k < 8 →
      (fields.filter fun b => decide (b.low ≤ k ∧ k < b.low + b.width)).length = 1 := by decide

/-- The PPUCTRL fields at their bits (R561). -/
theorem PpuCtrl.ofByte_eq (v : Byte) :
    PpuCtrl.ofByte v =
      ⟨v.extractLsb' 0 2, v.getLsbD 2, v.getLsbD 3, v.getLsbD 4, v.getLsbD 5, v.getLsbD 6, v.getLsbD 7⟩ := by
  revert v
  decide +kernel

/-- The PPUMASK fields at their bits (R562). -/
theorem PpuMask.ofByte_eq (v : Byte) :
    PpuMask.ofByte v =
      ⟨v.getLsbD 0, v.getLsbD 1, v.getLsbD 2, v.getLsbD 3, v.getLsbD 4, v.getLsbD 5, v.getLsbD 6, v.getLsbD 7⟩ := by
  revert v
  decide +kernel

/-- The status byte's fields from the top down (R563). -/
theorem Ppu.statusByte_eq (p : Ppu) :
    p.statusByte = BitVec.ofBool p.vblank ++ (BitVec.ofBool p.sprite0Hit ++
      (BitVec.ofBool p.spriteOverflow ++ p.lastWrite.extractLsb' 0 5)) := by
  simp only [Ppu.statusByte, byteOf, statusLayout, List.foldl, Ppu.statusField]
  generalize p.vblank = a, p.sprite0Hit = b, p.spriteOverflow = c, p.lastWrite = v
  revert a b c v
  decide +kernel

/-- The mirroring table's quadrants are four (20_memory.md R122). -/
theorem mirrorQuadrant_lt (m : Mirroring) {q : Nat} (h : q < 4) : mirrorQuadrant m q < 4 := by
  revert q
  cases m <;> decide

theorem mirrored_lt (x : Nat) : x % 2048 < 2048 := Nat.mod_lt _ (by decide)

theorem palIndex_lt (a : Nat) : palIndex a < 32 := by
  unfold palIndex
  dsimp only
  split <;> omega

/-! ### The NMI line -/

@[simp] theorem Ppu.nmiChange_nmiLine (d : Nat) (p : Ppu) : (Ppu.nmiChange d p).nmiLine = p.nmiLine := rfl

@[simp] theorem Ppu.nmiChange_nmiPrevious (d : Nat) (p : Ppu) : (Ppu.nmiChange d p).nmiPrevious = p.nmiLine := rfl

/-- A picture unit whose raster, count and memories are those of `p`, and whose line is as last computed, is as good as `p`. -/
theorem Ppu.Inv.congr {p q : Ppu} (h : p.Inv) (h1 : q.dot = p.dot) (h2 : q.scanline = p.scanline)
    (h3 : q.spriteCount = p.spriteCount) (h4 : q.nmiPrevious = q.nmiLine) (h5 : q.oam = p.oam) (h6 : q.nt = p.nt)
    (h7 : q.pal = p.pal) (h8 : q.front = p.front) (h9 : q.back = p.back) : q.Inv :=
  ⟨h1 ▸ h.dot, h2 ▸ h.scanline, h3 ▸ h.spriteCount, h4, h5 ▸ h.oam, h6 ▸ h.nt, h7 ▸ h.pal, h8 ▸ h.front, h9 ▸ h.back⟩

theorem Ppu.Inv.writeOam {p : Ppu} (h : p.Inv) (b : Byte) : (p.writeOam b).Inv :=
  ⟨h.dot, h.scanline, h.spriteCount, h.nmiPrevious, h.oam.write p.oamAddr.isLt b, h.nt, h.pal, h.front, h.back⟩

theorem Ppu.Inv.lastWrite {p : Ppu} (h : p.Inv) (b : Byte) : Ppu.Inv { p with lastWrite := b } :=
  h.congr rfl rfl rfl h.nmiPrevious rfl rfl rfl rfl rfl

theorem Ppu.Inv.writeCtrl {p : Ppu} (h : p.Inv) (d : Nat) (b : Byte) : (p.writeCtrl d b).Inv :=
  h.congr rfl rfl rfl rfl rfl rfl rfl rfl rfl

theorem Ppu.Inv.afterStatusRead {p : Ppu} (h : p.Inv) (d : Nat) : (p.afterStatusRead d).Inv :=
  h.congr rfl rfl rfl rfl rfl rfl rfl rfl rfl

theorem Ppu.Inv.writeScroll {p : Ppu} (h : p.Inv) (b : Byte) : (p.writeScroll b).Inv := by
  unfold Ppu.writeScroll
  dsimp only
  split <;> exact h.congr rfl rfl rfl h.nmiPrevious rfl rfl rfl rfl rfl

theorem Ppu.Inv.writeAddr {p : Ppu} (h : p.Inv) (b : Byte) : (p.writeAddr b).Inv := by
  unfold Ppu.writeAddr
  dsimp only
  split <;> exact h.congr rfl rfl rfl h.nmiPrevious rfl rfl rfl rfl rfl

/-! ### Picture space -/

/-- A picture-space write keeps the invariants of the picture unit and the cartridge, and changes nothing else. -/
theorem ppuWrite_inv {s : State} (hp : s.ppu.Inv) (hc : s.cart.Inv) (a : Nat) (v : Byte) :
    (ppuWrite s a v).ppu.Inv ∧ (ppuWrite s a v).cart.Inv := by
  unfold ppuWrite
  dsimp only
  split
  · exact ⟨hp, hc.chrWrite ‹_› v⟩
  · split
    · exact ⟨⟨hp.dot, hp.scanline, hp.spriteCount, hp.nmiPrevious, hp.oam, hp.nt.write (mirrored_lt _) v, hp.pal, hp.front, hp.back⟩, hc⟩
    · exact ⟨⟨hp.dot, hp.scanline, hp.spriteCount, hp.nmiPrevious, hp.oam, hp.nt, hp.pal.write (palIndex_lt _) v, hp.front, hp.back⟩, hc⟩

/-- What a picture-space write cannot change. -/
theorem ppuWrite_frame (s : State) (a : Nat) (v : Byte) :
    (ppuWrite s a v).cpu = s.cpu ∧ (ppuWrite s a v).ram = s.ram ∧ (ppuWrite s a v).port1 = s.port1 ∧
    (ppuWrite s a v).port2 = s.port2 ∧ (ppuWrite s a v).halted = s.halted ∧ (ppuWrite s a v).faultRecord = s.faultRecord ∧
    (ppuWrite s a v).cfg = s.cfg ∧ (ppuWrite s a v).cart.prg = s.cart.prg ∧ (ppuWrite s a v).cart.sram = s.cart.sram ∧
    (ppuWrite s a v).cart.mapper = s.cart.mapper ∧
    ∃ nt pal, (ppuWrite s a v).ppu = { s.ppu with nt := nt, pal := pal } := by
  unfold ppuWrite
  dsimp only
  split
  · exact ⟨rfl, rfl, rfl, rfl, rfl, rfl, rfl, rfl, rfl, rfl, s.ppu.nt, s.ppu.pal, rfl⟩
  · split
    · exact ⟨rfl, rfl, rfl, rfl, rfl, rfl, rfl, rfl, rfl, rfl, _, s.ppu.pal, rfl⟩
    · exact ⟨rfl, rfl, rfl, rfl, rfl, rfl, rfl, rfl, rfl, rfl, s.ppu.nt, _, rfl⟩

/-! ### The picture step -/

/-- A picture-space read depends on the cartridge, the nametables and the palette alone (20_memory.md R120). -/
theorem ppuRead_congr {s t : State} (hc : t.cart = s.cart) (hn : t.ppu.nt = s.ppu.nt) (hp : t.ppu.pal = s.ppu.pal) (a : Nat) :
    ppuRead t a = ppuRead s a := by
  unfold ppuRead
  rw [hc, hn, hp]

/-- The advance moves the raster and changes nothing else (61_ppu.md R551). -/
theorem Ppu.advance_frame (p : Ppu) :
    p.advance = { p with
      dot := p.advance.dot, scanline := p.advance.scanline, frame := p.advance.frame, f := p.advance.f } := by
  unfold Ppu.advance Ppu.nextFrame
  repeat' split
  all_goals rfl

/-- A rendered pixel reaches the hit flag and the back buffer alone (R586). -/
theorem renderVisible_frame (s : State) :
    ∃ hit back, renderVisible s = { s with ppu := { s.ppu with sprite0Hit := hit, back := back } } := by
  unfold renderVisible
  split
  · exact ⟨_, _, rfl⟩
  · exact ⟨s.ppu.sprite0Hit, s.ppu.back, rfl⟩

/-- A fetch dot reaches the fetch state alone (R554, step 3). -/
theorem fetchCycle_frame (s : State) :
    ∃ nt at' lo hi shift, fetchCycle s = { s with ppu := { s.ppu with
      ntByte := nt, atBits := at', patLo := lo, patHi := hi, tileShift := shift } } := by
  unfold fetchCycle fetchByDot
  repeat' split
  all_goals first
    | exact ⟨_, s.ppu.atBits, s.ppu.patLo, s.ppu.patHi, _, rfl⟩
    | exact ⟨s.ppu.ntByte, _, s.ppu.patLo, s.ppu.patHi, _, rfl⟩
    | exact ⟨s.ppu.ntByte, s.ppu.atBits, _, s.ppu.patHi, _, rfl⟩
    | exact ⟨s.ppu.ntByte, s.ppu.atBits, s.ppu.patLo, _, _, rfl⟩

/-- Dot 257 reaches the sprite slots, the count and the overflow flag alone (R554, step 5). -/
theorem spriteCycle_frame (s : State) :
    ∃ count slots ovf, spriteCycle s = { s with ppu := { s.ppu with
      spriteCount := count, sprites := slots, spriteOverflow := ovf } } := by
  unfold spriteCycle
  repeat' split
  · exact ⟨_, _, _, rfl⟩
  · exact ⟨0, s.ppu.sprites, s.ppu.spriteOverflow, rfl⟩
  · exact ⟨s.ppu.spriteCount, s.ppu.sprites, s.ppu.spriteOverflow, rfl⟩

/-- The vblank set and clear reach the flags, the two buffers and the NMI arming alone (R592, R593). -/
theorem vblankActions_frame (s : State) :
    ∃ vb hit ovf front back prev delay, vblankActions s = { s with ppu := { s.ppu with
      vblank := vb, sprite0Hit := hit, spriteOverflow := ovf, front := front, back := back, nmiPrevious := prev
      nmiDelay := delay } } := by
  unfold vblankActions
  repeat' split
  · exact ⟨_, s.ppu.sprite0Hit, s.ppu.spriteOverflow, _, _, _, _, rfl⟩
  · exact ⟨_, _, _, s.ppu.front, s.ppu.back, _, _, rfl⟩
  · exact ⟨s.ppu.vblank, s.ppu.sprite0Hit, s.ppu.spriteOverflow, s.ppu.front, s.ppu.back, s.ppu.nmiPrevious, s.ppu.nmiDelay, rfl⟩

/-- The states a picture or mapper step can lead to from `s`: the processor but for its latch, RAM, the controllers, the program
and the parameters are as they were. -/
structure PictureFrame (s t : State) : Prop where
  cpu : ∃ l, t.cpu = { s.cpu with latch := l }
  ram : t.ram = s.ram
  port1 : t.port1 = s.port1
  port2 : t.port2 = s.port2
  prg : t.cart.prg = s.cart.prg
  chr : t.cart.chr = s.cart.chr
  sram : t.cart.sram = s.cart.sram
  mirror : t.cart.mirror = s.cart.mirror
  halted : t.halted = s.halted
  faultRecord : t.faultRecord = s.faultRecord
  cfg : t.cfg = s.cfg

theorem PictureFrame.refl (s : State) : PictureFrame s s :=
  ⟨⟨s.cpu.latch, rfl⟩, rfl, rfl, rfl, rfl, rfl, rfl, rfl, rfl, rfl, rfl⟩

theorem PictureFrame.trans {s t u : State} (h : PictureFrame s t) (k : PictureFrame t u) : PictureFrame s u := by
  obtain ⟨l, hl⟩ := h.cpu
  obtain ⟨m, hm⟩ := k.cpu
  exact ⟨⟨m, by rw [hm, hl]⟩, k.ram.trans h.ram, k.port1.trans h.port1, k.port2.trans h.port2, k.prg.trans h.prg,
    k.chr.trans h.chr, k.sram.trans h.sram, k.mirror.trans h.mirror, k.halted.trans h.halted,
    k.faultRecord.trans h.faultRecord, k.cfg.trans h.cfg⟩

/-- Replacing the picture unit only. -/
theorem PictureFrame.ppu (s : State) (p : Ppu) : PictureFrame s { s with ppu := p } :=
  ⟨⟨s.cpu.latch, rfl⟩, rfl, rfl, rfl, rfl, rfl, rfl, rfl, rfl, rfl, rfl⟩

theorem requestNmi_frame (s : State) : PictureFrame s (requestNmi s) :=
  ⟨⟨_, rfl⟩, rfl, rfl, rfl, rfl, rfl, rfl, rfl, rfl, rfl, rfl⟩

theorem requestIrq_frame (s : State) : PictureFrame s (requestIrq s) := by
  unfold requestIrq
  split
  · exact ⟨⟨_, rfl⟩, rfl, rfl, rfl, rfl, rfl, rfl, rfl, rfl, rfl, rfl⟩
  · exact PictureFrame.refl s

/-- A change of the picture unit's state outside its raster, count, line and memories. -/
theorem State.ppu_inv_of {s : State} {q : Ppu} (h : s.ppu.Inv) (h1 : q.dot = s.ppu.dot) (h2 : q.scanline = s.ppu.scanline)
    (h3 : q.spriteCount = s.ppu.spriteCount) (h4 : q.nmiPrevious = s.ppu.nmiPrevious) (h4' : q.nmiLine = s.ppu.nmiLine)
    (h5 : q.oam = s.ppu.oam) (h6 : q.nt = s.ppu.nt) (h7 : q.pal = s.ppu.pal) (h8 : q.front = s.ppu.front)
    (h9 : q.back = s.ppu.back) : q.Inv :=
  h.congr h1 h2 h3 (by rw [h4, h4', h.nmiPrevious]) h5 h6 h7 h8 h9

/-- `P` holds of the states a picture step can lead to: the frame, and the picture unit's invariant. -/
def PictureStep (s t : State) : Prop := PictureFrame s t ∧ (s.ppu.Inv → t.ppu.Inv) ∧ (s.cart.Inv → t.cart.Inv)

theorem PictureStep.refl (s : State) : PictureStep s s := ⟨PictureFrame.refl s, id, id⟩

theorem PictureStep.trans {s t u : State} (h : PictureStep s t) (k : PictureStep t u) : PictureStep s u :=
  ⟨h.1.trans k.1, k.2.1 ∘ h.2.1, k.2.2 ∘ h.2.2⟩

theorem PictureStep.ofPpu (s : State) (p : Ppu) (h : s.ppu.Inv → p.Inv) : PictureStep s { s with ppu := p } :=
  ⟨PictureFrame.ppu s p, h, id⟩

theorem nmiCountdown_step (s : State) : PictureStep s (nmiCountdown s) := by
  unfold nmiCountdown
  split
  · exact PictureStep.refl s
  · dsimp only
    have hi : ∀ n, s.ppu.Inv → Ppu.Inv { s.ppu with nmiDelay := n } := fun n h =>
      State.ppu_inv_of h rfl rfl rfl rfl rfl rfl rfl rfl rfl rfl
    split
    · exact ⟨(PictureFrame.ppu s _).trans (requestNmi_frame _), hi _, id⟩
    · exact PictureStep.ofPpu s _ (hi _)

theorem Ppu.Inv.nextFrame {p : Ppu} (h : p.Inv) : p.nextFrame.Inv :=
  ⟨by simp [Ppu.nextFrame], by simp [Ppu.nextFrame], h.spriteCount, h.nmiPrevious, h.oam, h.nt, h.pal, h.front, h.back⟩

theorem Ppu.Inv.advance {p : Ppu} (h : p.Inv) : p.advance.Inv := by
  unfold Ppu.advance
  split
  · exact h.nextFrame
  · split
    · exact ⟨‹_›, h.scanline, h.spriteCount, h.nmiPrevious, h.oam, h.nt, h.pal, h.front, h.back⟩
    · split
      · exact ⟨Nat.zero_le _, ‹_›, h.spriteCount, h.nmiPrevious, h.oam, h.nt, h.pal, h.front, h.back⟩
      · exact h.nextFrame

theorem advanceRaster_step (s : State) : PictureStep s (advanceRaster s) := PictureStep.ofPpu s _ Ppu.Inv.advance

theorem renderVisible_step (s : State) : PictureStep s (renderVisible s) := by
  unfold renderVisible
  split
  · rename_i hv
    simp only [Ppu.visibleLine, Ppu.visibleDot, Bool.and_eq_true, decide_eq_true_eq] at hv
    exact PictureStep.ofPpu s _ fun h =>
      ⟨h.dot, h.scanline, h.spriteCount, h.nmiPrevious, h.oam, h.nt, h.pal, h.front, h.back.write (by omega) _⟩
  · exact PictureStep.refl s

theorem fetchByDot_step (s : State) : PictureStep s (fetchByDot s) := by
  unfold fetchByDot
  split <;> first
    | exact PictureStep.refl s
    | exact PictureStep.ofPpu s _ fun h => State.ppu_inv_of h rfl rfl rfl rfl rfl rfl rfl rfl rfl rfl

theorem fetchCycle_step (s : State) : PictureStep s (fetchCycle s) := by
  unfold fetchCycle
  split
  · refine PictureStep.trans ?_ (fetchByDot_step _)
    exact PictureStep.ofPpu s _ fun h => State.ppu_inv_of h rfl rfl rfl rfl rfl rfl rfl rfl rfl rfl
  · exact PictureStep.refl s

theorem evaluateSprites_step (s : State) : PictureStep s (evaluateSprites s) :=
  PictureStep.ofPpu s _ fun h =>
    ⟨h.dot, h.scanline, Nat.min_le_right _ _, h.nmiPrevious, h.oam, h.nt, h.pal, h.front, h.back⟩

theorem spriteCycle_step (s : State) : PictureStep s (spriteCycle s) := by
  unfold spriteCycle
  split
  · split
    · exact evaluateSprites_step s
    · exact PictureStep.ofPpu s _ fun h =>
        ⟨h.dot, h.scanline, Nat.zero_le _, h.nmiPrevious, h.oam, h.nt, h.pal, h.front, h.back⟩
  · exact PictureStep.refl s

theorem renderingActions_step (s : State) : PictureStep s (renderingActions s) := by
  unfold renderingActions
  split
  · refine ((renderVisible_step s).trans (fetchCycle_step _)).trans (PictureStep.trans ?_ (spriteCycle_step _))
    exact PictureStep.ofPpu _ _ fun h => State.ppu_inv_of h rfl rfl rfl rfl rfl rfl rfl rfl rfl rfl
  · exact PictureStep.refl s

theorem vblankActions_step (s : State) : PictureStep s (vblankActions s) := by
  unfold vblankActions
  split
  · exact PictureStep.ofPpu s _ fun h => ⟨h.dot, h.scanline, h.spriteCount, rfl, h.oam, h.nt, h.pal, h.back, h.front⟩
  · split
    · exact PictureStep.ofPpu s _ fun h => h.congr rfl rfl rfl rfl rfl rfl rfl rfl rfl
    · exact PictureStep.refl s

/-- A picture step keeps the invariants, and reaches the processor through its latch only. -/
theorem ppuStep_step (s : State) : PictureStep s (ppuStep s) :=
  (((nmiCountdown_step s).trans (advanceRaster_step _)).trans (renderingActions_step _)).trans (vblankActions_step _)

/-- A mapper step keeps the invariants, and reaches the processor through its latch only. -/
theorem mapperStep_step (s : State) : PictureStep s (mapperStep s) := by
  unfold mapperStep
  split
  · rename_i st hm
    split
    · unfold clockCounter
      have h0 : PictureStep s { s with cart := { s.cart with mapper := .scanlineIrq st.clocked } } :=
        ⟨⟨⟨s.cpu.latch, rfl⟩, rfl, rfl, rfl, rfl, rfl, rfl, rfl, rfl, rfl, rfl⟩, id, fun h => h.clocked hm⟩
      dsimp only
      split
      · refine h0.trans ⟨requestIrq_frame _, ?_, ?_⟩ <;> (unfold requestIrq; split <;> exact id)
      · exact h0
    · exact PictureStep.refl s
  · exact PictureStep.refl s
  · exact PictureStep.refl s

/-- Any number of picture and mapper steps. -/
theorem runPicture_step : ∀ (n : Nat) (s : State), PictureStep s (runPicture n s)
  | 0, s => PictureStep.refl s
  | n + 1, s => ((ppuStep_step s).trans (mapperStep_step _)).trans (runPicture_step n _)

theorem runPicture_add : ∀ (m n : Nat) (s : State), runPicture (m + n) s = runPicture n (runPicture m s)
  | 0, n, s => by simp [runPicture]
  | m + 1, n, s => by
    have : m + 1 + n = (m + n) + 1 := by omega
    rw [this]
    exact runPicture_add m n _

end Sys2Proof.Machine
end

