-- ==== Sys2Proof/Laws/Bus.lean ====
section
/-! SUPPORT. Everything a bus access can do: when it faults, what it leaves alone, and that it keeps the invariant. -/

namespace Sys2Proof.Machine

/-! ### Sequencing -/

theorem Res.andThen_ok {α β : Type} {r : Res α} {k : α → State → Res β} {b : β} {t : State} :
    r.andThen k = .ok b t ↔ ∃ a s, r = .ok a s ∧ k a s = .ok b t := by
  cases r <;> simp [Res.andThen]

theorem Res.andThen_fault {α β : Type} {r : Res α} {k : α → State → Res β} {e : BusFault} {t : State} :
    r.andThen k = .fault e t ↔ r = .fault e t ∨ ∃ a s, r = .ok a s ∧ k a s = .fault e t := by
  cases r <;> simp [Res.andThen]

@[simp] theorem Res.andThen_ok_left {α β : Type} (a : α) (s : State) (k : α → State → Res β) :
    (Res.ok a s).andThen k = k a s := rfl

@[simp] theorem Res.andThen_fault_left {α β : Type} (e : BusFault) (s : State) (k : α → State → Res β) :
    (Res.fault (α := α) e s).andThen k = .fault e s := rfl

/-! ### Reads -/

/-- What a read leaves alone: all but the picture registers that reads of 0x2002 and 0x2007 change, and the controllers'
indexes (20_memory.md R113). -/
structure ReadFrame (s t : State) : Prop where
  cpu : t.cpu = s.cpu
  ram : t.ram = s.ram
  cart : t.cart = s.cart
  halted : t.halted = s.halted
  faultRecord : t.faultRecord = s.faultRecord
  cfg : t.cfg = s.cfg
  port1 : ∃ i d, t.port1 = { s.port1 with index := i, draws := d }
  port2 : ∃ i d, t.port2 = { s.port2 with index := i, draws := d }
  ppu : ∃ v w vb rb np nd, t.ppu =
    { s.ppu with v := v, w := w, vblank := vb, readBuffer := rb, nmiPrevious := np, nmiDelay := nd }

theorem ReadFrame.refl (s : State) : ReadFrame s s :=
  ⟨rfl, rfl, rfl, rfl, rfl, rfl, ⟨_, _, rfl⟩, ⟨_, _, rfl⟩, ⟨_, _, _, _, _, _, rfl⟩⟩

theorem ReadFrame.trans {s t u : State} (h : ReadFrame s t) (k : ReadFrame t u) : ReadFrame s u := by
  obtain ⟨i1, d1, h1⟩ := h.port1
  obtain ⟨i2, d2, h2⟩ := h.port2
  obtain ⟨v, w, vb, rb, np, nd, h3⟩ := h.ppu
  obtain ⟨i1', d1', k1⟩ := k.port1
  obtain ⟨i2', d2', k2⟩ := k.port2
  obtain ⟨v', w', vb', rb', np', nd', k3⟩ := k.ppu
  exact ⟨k.cpu.trans h.cpu, k.ram.trans h.ram, k.cart.trans h.cart, k.halted.trans h.halted,
    k.faultRecord.trans h.faultRecord, k.cfg.trans h.cfg, ⟨i1', d1', by rw [k1, h1]⟩, ⟨i2', d2', by rw [k2, h2]⟩,
    ⟨v', w', vb', rb', np', nd', by rw [k3, h3]⟩⟩

theorem ppuRegRead_frame (r : Nat) (s : State) : ReadFrame s (ppuRegRead r s).2 := by
  unfold ppuRegRead
  split
  · exact ⟨rfl, rfl, rfl, rfl, rfl, rfl, ⟨_, _, rfl⟩, ⟨_, _, rfl⟩, ⟨s.ppu.v, _, _, s.ppu.readBuffer, _, _, rfl⟩⟩
  · exact ReadFrame.refl s
  · exact ⟨rfl, rfl, rfl, rfl, rfl, rfl, ⟨_, _, rfl⟩, ⟨_, _, rfl⟩,
      ⟨_, s.ppu.w, s.ppu.vblank, _, s.ppu.nmiPrevious, s.ppu.nmiDelay, rfl⟩⟩
  · exact ReadFrame.refl s

theorem controllerRead_frame (p : Port) (s : State) : ReadFrame s (controllerRead p s).2 := by
  cases p
  · exact ⟨rfl, rfl, rfl, rfl, rfl, rfl, ⟨_, _, rfl⟩, ⟨_, _, rfl⟩, ⟨_, _, _, _, _, _, rfl⟩⟩
  · exact ⟨rfl, rfl, rfl, rfl, rfl, rfl, ⟨_, _, rfl⟩, ⟨_, _, rfl⟩, ⟨_, _, _, _, _, _, rfl⟩⟩

/-- A read that answers leaves everything but read side effects alone. -/
theorem memRead_frame {a : Word} {s t : State} {b : Byte} (h : memRead a s = .ok b t) : ReadFrame s t := by
  unfold memRead at h
  dsimp only at h
  repeat' split at h
  all_goals first
    | (cases h; first
        | exact ReadFrame.refl s
        | exact ppuRegRead_frame _ s
        | exact controllerRead_frame _ s)
    | cases h

/-- A read faults only at an unmapped mapper address, and then changes nothing (62_mappers.md R652, 60_exceptions.md R521). -/
theorem memRead_fault {a : Word} {s t : State} {e : BusFault} (h : memRead a s = .fault e t) :
    e = ⟨a, .read⟩ ∧ t = s ∧ ¬ s.mapped a := by
  unfold memRead at h
  dsimp only at h
  repeat' split at h
  all_goals first
    | (cases h; done)
    | skip
  rename_i h1 h2 h3 h4 h5 h6 h7 _ hn
  cases h
  refine ⟨rfl, rfl, ?_⟩
  intro hm
  have h60 : a.toNat < 0x6000 := by
    by_contra hge
    obtain ⟨b, hb⟩ := s.cart.read_some (a := a.toNat) (Or.inr (by omega))
    rw [hb] at hn
    cases hn
  rcases hm with hz | hlt | hge
  · exact h7 ⟨h60, hz⟩
  · exact h6 hlt
  · omega

/-- A read of a mapped address answers. -/
theorem memRead_ok {a : Word} {s : State} (h : s.mapped a) : ∃ b t, memRead a s = .ok b t := by
  cases hr : memRead a s with
  | ok b t => exact ⟨b, t, rfl⟩
  | fault e t => exact absurd h (memRead_fault hr).2.2

/-- An address is unmapped exactly when the expansion range goes to the mapper and holds it. -/
theorem State.not_mapped {a : Word} {s : State} (h : ¬ s.mapped a) :
    s.cfg.expansionRouting ≠ .zero ∧ 0x4020 ≤ a.toNat ∧ a.toNat < 0x6000 := by
  simpa only [State.mapped, not_or, Nat.not_lt, Nat.not_le] using h

/-- A read of an unmapped address faults. -/
theorem memRead_unmapped {a : Word} {s : State} (h : ¬ s.mapped a) : memRead a s = .fault ⟨a, .read⟩ s := by
  obtain ⟨hz, hlo, hhi⟩ := State.not_mapped h
  have hn : s.cart.read a.toNat = none := s.cart.read_none (by omega) hhi
  cases hr : memRead a s with
  | fault e t => obtain ⟨rfl, rfl, -⟩ := memRead_fault hr; rfl
  | ok b t =>
    unfold memRead at hr
    dsimp only at hr
    repeat' split at hr
    all_goals first
      | (exfalso; omega)
      | exact absurd (And.right ‹_ ∧ _›) hz
      | simp_all only [reduceCtorEq]

theorem memRead_ram {a : Word} (s : State) (h : a.toNat < 0x2000) :
    memRead a s = .ok (Sparse.read s.ram (ramIndex a)) s := by
  unfold memRead
  dsimp only
  rw [if_pos h]

/-- A read from 0x6000 on is the mapper's, and has no side effect. -/
theorem memRead_cart {a : Word} {s : State} {b : Byte} (h : 0x6000 ≤ a.toNat) (hb : s.cart.read a.toNat = some b) :
    memRead a s = .ok b s := by
  unfold memRead
  dsimp only
  repeat' split
  all_goals first
    | (exfalso; omega)
    | simp_all only [Option.some.injEq, reduceCtorEq]

/-- A read of memory gives the byte and has no side effect. -/
theorem memRead_memoryByte {a : Word} {s : State} {b : Byte} (h : s.memoryByte a = some b) : memRead a s = .ok b s := by
  unfold State.memoryByte at h
  split at h
  · cases h; exact memRead_ram s ‹_›
  · rename_i hram
    refine memRead_cart ?_ (by unfold Cartridge.read; rw [if_neg hram]; exact h)
    by_contra hlow
    rw [if_neg (by omega), if_neg hlow] at h
    cases h

theorem Controller.Inv.afterRead {c : Controller} (_h : c.Inv) : c.afterRead.Inv := by
  intro hs
  simp only [Controller.afterRead] at hs ⊢
  rw [if_pos hs]

theorem ppuRegRead_inv {s : State} (h : s.Inv) (r : Nat) : (ppuRegRead r s).2.Inv := by
  have hf := ppuRegRead_frame r s
  have hp : (ppuRegRead r s).2.ppu.Inv := by
    unfold ppuRegRead
    split
    · exact h.ppu.afterStatusRead _
    · exact h.ppu
    · exact State.ppu_inv_of h.ppu rfl rfl rfl rfl rfl rfl rfl rfl rfl rfl
    · exact h.ppu
  have hports : (ppuRegRead r s).2.port1 = s.port1 ∧ (ppuRegRead r s).2.port2 = s.port2 := by
    unfold ppuRegRead
    split <;> exact ⟨rfl, rfl⟩
  exact ⟨hf.cpu ▸ h.flags, hf.ram ▸ h.ram, hports.1 ▸ h.port1, hports.2 ▸ h.port2, hp, hf.cart ▸ h.cart,
    by rw [hf.halted, hf.faultRecord]; exact h.halted⟩

theorem controllerRead_inv {s : State} (h : s.Inv) (p : Port) : (controllerRead p s).2.Inv := by
  cases p
  · exact ⟨h.flags, h.ram, h.port1.afterRead, h.port2, h.ppu, h.cart, h.halted⟩
  · exact ⟨h.flags, h.ram, h.port1, h.port2.afterRead, h.ppu, h.cart, h.halted⟩

/-- A read keeps the invariant. -/
theorem memRead_inv {a : Word} {s t : State} {b : Byte} (hi : s.Inv) (h : memRead a s = .ok b t) : t.Inv := by
  unfold memRead at h
  dsimp only at h
  repeat' split at h
  all_goals first
    | (cases h; first
        | exact hi
        | exact ppuRegRead_inv hi _
        | exact controllerRead_inv hi _)
    | cases h

/-! ### Writes -/

/-- What a write cannot change: the processor but for its stall counter, program bytes, the raster, the frame buffers, the
parameters, and the fault state. -/
structure WriteFrame (s t : State) : Prop where
  cpu : ∃ n, t.cpu = { s.cpu with stall := n }
  prg : t.cart.prg = s.cart.prg
  halted : t.halted = s.halted
  faultRecord : t.faultRecord = s.faultRecord
  cfg : t.cfg = s.cfg
  dot : t.ppu.dot = s.ppu.dot
  scanline : t.ppu.scanline = s.ppu.scanline
  frame : t.ppu.frame = s.ppu.frame
  f : t.ppu.f = s.ppu.f
  front : t.ppu.front = s.ppu.front
  back : t.ppu.back = s.ppu.back

theorem WriteFrame.refl (s : State) : WriteFrame s s :=
  ⟨⟨s.cpu.stall, rfl⟩, rfl, rfl, rfl, rfl, rfl, rfl, rfl, rfl, rfl, rfl⟩

theorem WriteFrame.trans {s t u : State} (h : WriteFrame s t) (k : WriteFrame t u) : WriteFrame s u := by
  obtain ⟨n, hn⟩ := h.cpu
  obtain ⟨m, hm⟩ := k.cpu
  exact ⟨⟨m, by rw [hm, hn]⟩, k.prg.trans h.prg, k.halted.trans h.halted, k.faultRecord.trans h.faultRecord,
    k.cfg.trans h.cfg, k.dot.trans h.dot, k.scanline.trans h.scanline, k.frame.trans h.frame, k.f.trans h.f,
    k.front.trans h.front, k.back.trans h.back⟩

theorem ReadFrame.toWriteFrame {s t : State} (h : ReadFrame s t) : WriteFrame s t := by
  obtain ⟨v, w, vb, rb, np, nd, hp⟩ := h.ppu
  exact ⟨⟨s.cpu.stall, h.cpu⟩, by rw [h.cart], h.halted, h.faultRecord, h.cfg, by rw [hp], by rw [hp], by rw [hp],
    by rw [hp], by rw [hp], by rw [hp]⟩

/-- Replacing the picture unit by one with the same raster and frame buffers. -/
theorem WriteFrame.ppu {s : State} {p : Ppu} (h1 : p.dot = s.ppu.dot) (h2 : p.scanline = s.ppu.scanline)
    (h3 : p.frame = s.ppu.frame) (h4 : p.f = s.ppu.f) (h5 : p.front = s.ppu.front) (h6 : p.back = s.ppu.back) :
    WriteFrame s { s with ppu := p } :=
  ⟨⟨s.cpu.stall, rfl⟩, rfl, rfl, rfl, rfl, h1, h2, h3, h4, h5, h6⟩

theorem ppuRegWrite_frame (r : Nat) (b : Byte) (s : State) : WriteFrame s (ppuRegWrite r b s) := by
  unfold ppuRegWrite
  dsimp only
  split
  · exact WriteFrame.ppu rfl rfl rfl rfl rfl rfl
  · exact WriteFrame.ppu rfl rfl rfl rfl rfl rfl
  · exact WriteFrame.ppu rfl rfl rfl rfl rfl rfl
  · exact WriteFrame.ppu rfl rfl rfl rfl rfl rfl
  · refine WriteFrame.ppu ?_ ?_ ?_ ?_ ?_ ?_ <;> (unfold Ppu.writeScroll; dsimp only; split <;> rfl)
  · refine WriteFrame.ppu ?_ ?_ ?_ ?_ ?_ ?_ <;> (unfold Ppu.writeAddr; dsimp only; split <;> rfl)
  · unfold ppuDataWrite
    obtain ⟨h1, _, _, _, h5, h6, h7, h8, _, _, nt, pal, h9⟩ :=
      ppuWrite_frame { s with ppu := { s.ppu with lastWrite := b } } s.ppu.v.toNat b
    dsimp only
    refine ⟨⟨s.cpu.stall, h1⟩, h8, h5, h6, h7, ?_, ?_, ?_, ?_, ?_, ?_⟩ <;> (dsimp only [Ppu.stepAddress]; rw [h9])
  · exact WriteFrame.ppu rfl rfl rfl rfl rfl rfl

theorem oamCopy_frame : ∀ (n : Nat) (a : Word) (s : State),
    (∀ t, oamCopy n a s = .ok () t → WriteFrame s t ∧ t.cpu = s.cpu) ∧
    (∀ e t, oamCopy n a s = .fault e t → WriteFrame s t ∧ t.cpu = s.cpu)
  | 0, a, s => by
    refine ⟨fun t h => ?_, fun e t h => ?_⟩
    · simp only [oamCopy, Res.ok.injEq] at h
      rw [← h.2]; exact ⟨WriteFrame.refl s, rfl⟩
    · simp [oamCopy] at h
  | n + 1, a, s => by
    simp only [oamCopy]
    refine ⟨fun t h => ?_, fun e t h => ?_⟩
    · obtain ⟨b, s1, h1, h2⟩ := Res.andThen_ok.mp h
      have hr := memRead_frame h1
      have h3 := (oamCopy_frame n (a + 1) _).1 t h2
      have h0 := WriteFrame.ppu (s := s1) (p := s1.ppu.writeOam b) rfl rfl rfl rfl rfl rfl
      exact ⟨(hr.toWriteFrame.trans h0).trans h3.1, h3.2.trans hr.cpu⟩
    · rcases Res.andThen_fault.mp h with h1 | ⟨b, s1, h1, h2⟩
      · obtain ⟨_, rfl, _⟩ := memRead_fault h1
        exact ⟨WriteFrame.refl _, rfl⟩
      · have hr := memRead_frame h1
        have h3 := (oamCopy_frame n (a + 1) _).2 e t h2
        have h0 := WriteFrame.ppu (s := s1) (p := s1.ppu.writeOam b) rfl rfl rfl rfl rfl rfl
        exact ⟨(hr.toWriteFrame.trans h0).trans h3.1, h3.2.trans hr.cpu⟩

theorem oamCopy_inv : ∀ (n : Nat) (a : Word) (s : State), s.Inv →
    (∀ t, oamCopy n a s = .ok () t → t.Inv) ∧ (∀ e t, oamCopy n a s = .fault e t → t.Inv)
  | 0, a, s, hi => by
    refine ⟨fun t h => ?_, fun e t h => ?_⟩
    · simp only [oamCopy, Res.ok.injEq] at h
      rw [← h.2]; exact hi
    · simp [oamCopy] at h
  | n + 1, a, s, hi => by
    have hk : ∀ s1 : State, s1.Inv → ∀ b, State.Inv { s1 with ppu := s1.ppu.writeOam b } := fun s1 h b =>
      ⟨h.flags, h.ram, h.port1, h.port2, h.ppu.writeOam b, h.cart, h.halted⟩
    simp only [oamCopy]
    refine ⟨fun t h => ?_, fun e t h => ?_⟩
    · obtain ⟨b, s1, h1, h2⟩ := Res.andThen_ok.mp h
      exact (oamCopy_inv n (a + 1) _ (hk s1 (memRead_inv hi h1) b)).1 t h2
    · rcases Res.andThen_fault.mp h with h1 | ⟨b, s1, h1, h2⟩
      · obtain ⟨_, rfl, _⟩ := memRead_fault h1
        exact hi
      · exact (oamCopy_inv n (a + 1) _ (hk s1 (memRead_inv hi h1) b)).2 e t h2

/-- The DMA copy answers when none of its addresses is an unmapped mapper address. -/
theorem oamCopy_ok : ∀ (n : Nat) (a : Word) (s : State),
    (∀ k, k < n → s.mapped (a + BitVec.ofNat 16 k)) → ∃ t, oamCopy n a s = .ok () t
  | 0, _, s, _ => ⟨s, rfl⟩
  | n + 1, a, s, h => by
    obtain ⟨b, s1, h1⟩ := memRead_ok (by simpa using h 0 (by omega) : s.mapped a)
    have hr := memRead_frame h1
    have hm : ∀ k, k < n → State.mapped { s1 with ppu := s1.ppu.writeOam b } (a + 1 + BitVec.ofNat 16 k) := by
      intro k hk
      have := h (k + 1) (by omega)
      have he : a + 1 + BitVec.ofNat 16 k = a + BitVec.ofNat 16 (k + 1) := by
        apply BitVec.eq_of_toNat_eq
        simp [BitVec.toNat_add, BitVec.toNat_ofNat]
        omega
      rw [he]
      simpa [State.mapped, hr.cfg] using this
    obtain ⟨t, ht⟩ := oamCopy_ok n (a + 1) _ hm
    exact ⟨t, by simp only [oamCopy, h1, Res.andThen_ok_left]; exact ht⟩

theorem oamDma_frame {v : Byte} {s : State} :
    (∀ t, oamDma v s = .ok () t → WriteFrame s t) ∧ (∀ e t, oamDma v s = .fault e t → WriteFrame s t ∧ t.cpu = s.cpu) := by
  unfold oamDma
  refine ⟨fun t h => ?_, fun e t h => ?_⟩
  · obtain ⟨_, s1, h1, h2⟩ := Res.andThen_ok.mp h
    have hf := (oamCopy_frame _ _ s).1 s1 h1
    cases h2
    exact hf.1.trans ⟨⟨_, rfl⟩, rfl, rfl, rfl, rfl, rfl, rfl, rfl, rfl, rfl, rfl⟩
  · rcases Res.andThen_fault.mp h with h1 | ⟨_, s1, h1, h2⟩
    · exact (oamCopy_frame _ _ s).2 e t h1
    · cases h2

theorem oamDma_inv {v : Byte} {s : State} (hi : s.Inv) :
    (∀ t, oamDma v s = .ok () t → t.Inv) ∧ (∀ e t, oamDma v s = .fault e t → t.Inv) := by
  unfold oamDma
  refine ⟨fun t h => ?_, fun e t h => ?_⟩
  · obtain ⟨_, s1, h1, h2⟩ := Res.andThen_ok.mp h
    have h3 := (oamCopy_inv _ _ s hi).1 s1 h1
    cases h2
    exact ⟨h3.flags, h3.ram, h3.port1, h3.port2, h3.ppu, h3.cart, h3.halted⟩
  · rcases Res.andThen_fault.mp h with h1 | ⟨_, s1, h1, h2⟩
    · exact (oamCopy_inv _ _ s hi).2 e t h1
    · cases h2

theorem ppuRegWrite_inv {s : State} (h : s.Inv) (r : Nat) (b : Byte) : (ppuRegWrite r b s).Inv := by
  have hl := h.ppu.lastWrite b
  have hput : ∀ p : Ppu, p.Inv → State.Inv { s with ppu := p } := fun p hp =>
    ⟨h.flags, h.ram, h.port1, h.port2, hp, h.cart, h.halted⟩
  unfold ppuRegWrite
  dsimp only
  split
  · exact hput _ (hl.writeCtrl _ _)
  · exact hput _ (State.ppu_inv_of h.ppu rfl rfl rfl rfl rfl rfl rfl rfl rfl rfl)
  · exact hput _ (State.ppu_inv_of h.ppu rfl rfl rfl rfl rfl rfl rfl rfl rfl rfl)
  · exact hput _ (hl.writeOam _)
  · exact hput _ (hl.writeScroll _)
  · exact hput _ (hl.writeAddr _)
  · have hs' : State.Inv { s with ppu := { s.ppu with lastWrite := b } } := hput _ hl
    obtain ⟨h1, h2, h3, h4, h5, h6, _, _, _, _, _⟩ :=
      ppuWrite_frame { s with ppu := { s.ppu with lastWrite := b } } s.ppu.v.toNat b
    obtain ⟨k1, k2⟩ := ppuWrite_inv hs'.ppu hs'.cart s.ppu.v.toNat b
    refine ⟨?_, ?_, ?_, ?_, ?_, ?_, ?_⟩
    · show Flags.Inv (ppuWrite _ _ _).cpu.flags
      rw [h1]; exact h.flags
    · show Sparse.Inv 0x800 (ppuWrite _ _ _).ram
      rw [h2]; exact h.ram
    · show Controller.Inv (ppuWrite _ _ _).port1
      rw [h3]; exact h.port1
    · show Controller.Inv (ppuWrite _ _ _).port2
      rw [h4]; exact h.port2
    · exact State.ppu_inv_of k1 rfl rfl rfl rfl rfl rfl rfl rfl rfl rfl
    · exact k2
    · show (ppuWrite _ _ _).halted = (ppuWrite _ _ _).faultRecord.isSome
      rw [h5, h6]; exact h.halted
  · exact hput _ hl

theorem controllerWrite_frame (p : Port) (v : Byte) (s : State) : WriteFrame s (controllerWrite p v s) := by
  cases p <;> exact ⟨⟨_, rfl⟩, rfl, rfl, rfl, rfl, rfl, rfl, rfl, rfl, rfl, rfl⟩

theorem controllerWrite_inv {s : State} (h : s.Inv) (p : Port) (v : Byte) : (controllerWrite p v s).Inv := by
  have hc : ∀ c : Controller, Controller.Inv { c with strobe := v, index := if v.getLsbD 0 then 0 else c.index } :=
    fun c hs => by simp only at hs ⊢; rw [if_pos hs]
  cases p
  · exact ⟨h.flags, h.ram, hc _, h.port2, h.ppu, h.cart, h.halted⟩
  · exact ⟨h.flags, h.ram, h.port1, hc _, h.ppu, h.cart, h.halted⟩

theorem ramIndex_lt (a : Word) : ramIndex a < 0x800 := Nat.mod_lt _ (by decide)

theorem State.writeRam_inv {s : State} (h : s.Inv) (a : Word) (v : Byte) : (s.writeRam a v).Inv :=
  ⟨h.flags, h.ram.write (ramIndex_lt a) v, h.port1, h.port2, h.ppu, h.cart, h.halted⟩

/-- Everything a write can do: it answers or faults, keeps the write frame and the invariant either way, and when it faults the
processor is as it was. -/
theorem memWrite_spec (a : Word) (v : Byte) (s : State) :
    (∀ t, memWrite a v s = .ok () t → WriteFrame s t ∧ (s.Inv → t.Inv)) ∧
    (∀ e t, memWrite a v s = .fault e t → WriteFrame s t ∧ t.cpu = s.cpu ∧ (s.Inv → t.Inv)) := by
  unfold memWrite
  dsimp only
  have hself : ∀ t, Res.ok () s = .ok () t → WriteFrame s t ∧ (s.Inv → t.Inv) := fun t h => by
    cases h; exact ⟨WriteFrame.refl s, id⟩
  repeat' split
  · refine ⟨fun t h => ?_, fun e t h => by cases h⟩
    cases h
    exact ⟨⟨⟨s.cpu.stall, rfl⟩, rfl, rfl, rfl, rfl, rfl, rfl, rfl, rfl, rfl, rfl⟩, fun hi => State.writeRam_inv hi a v⟩
  · refine ⟨fun t h => ?_, fun e t h => by cases h⟩
    cases h
    exact ⟨ppuRegWrite_frame _ _ s, fun hi => ppuRegWrite_inv hi _ _⟩
  · exact ⟨fun t h => ⟨oamDma_frame.1 t h, fun hi => (oamDma_inv hi).1 t h⟩,
      fun e t h => ⟨(oamDma_frame.2 e t h).1, (oamDma_frame.2 e t h).2, fun hi => (oamDma_inv hi).2 e t h⟩⟩
  · refine ⟨fun t h => ?_, fun e t h => by cases h⟩
    cases h
    exact ⟨controllerWrite_frame _ _ s, fun hi => controllerWrite_inv hi _ _⟩
  · refine ⟨fun t h => ?_, fun e t h => by cases h⟩
    cases h
    exact ⟨controllerWrite_frame _ _ s, fun hi => controllerWrite_inv hi _ _⟩
  · exact ⟨hself, fun e t h => by cases h⟩
  · exact ⟨hself, fun e t h => by cases h⟩
  · rename_i c hc
    refine ⟨fun t h => ?_, fun e t h => by cases h⟩
    cases h
    exact ⟨⟨⟨s.cpu.stall, rfl⟩, Cartridge.write_prg hc, rfl, rfl, rfl, rfl, rfl, rfl, rfl, rfl, rfl⟩,
      fun hi => ⟨hi.flags, hi.ram, hi.port1, hi.port2, hi.ppu, hi.cart.write hc, hi.halted⟩⟩
  · refine ⟨fun t h => (by cases h), fun e t h => ?_⟩
    cases h
    exact ⟨WriteFrame.refl s, rfl, id⟩

/-- A write of storable data to a storable address answers. -/
theorem memWrite_ok {a : Word} {v : Byte} {s : State} (h : s.storable a v) : ∃ t, memWrite a v s = .ok () t := by
  obtain ⟨hm, hd⟩ := h
  unfold memWrite
  dsimp only
  repeat' split
  any_goals exact ⟨_, rfl⟩
  · rename_i h1 h2 h3
    have hpage := hd h3
    have hk : ∀ k, k < 256 → s.mapped (wordOf 0 v + BitVec.ofNat 16 k) := by
      intro k hk
      have hw : (wordOf 0 v + BitVec.ofNat 16 k).toNat = v.toNat * 256 + k := by
        have : (wordOf 0 v).toNat = v.toNat * 256 := by
          show (v ++ (0#8 : Byte)).toNat = _
          rw [BitVec.toNat_append]
          simp [Nat.shiftLeft_eq]
        have hv := v.isLt
        rw [BitVec.toNat_add, this, BitVec.toNat_ofNat]
        omega
      rcases hpage with hz | hlt | hge
      · exact Or.inl hz
      · exact Or.inr (Or.inl (by rw [hw]; omega))
      · exact Or.inr (Or.inr (by rw [hw]; omega))
    obtain ⟨t, ht⟩ := oamCopy_ok 256 (wordOf 0 v) s hk
    exact ⟨_, by simp only [oamDma, ht, Res.andThen_ok_left]; rfl⟩
  · rename_i h1 h2 h3 h4 h5 h6 h7 _ hn
    exfalso
    rcases hm with hz | hlt | hge
    · have h60 : ¬ a.toNat < 0x6000 := fun hlt => h7 ⟨hlt, hz⟩
      obtain ⟨c, hc⟩ := s.cart.write_some v (a := a.toNat) (Or.inr (by omega))
      rw [hc] at hn
      cases hn
    · exact h6 hlt
    · obtain ⟨c, hc⟩ := s.cart.write_some v (a := a.toNat) (Or.inr hge)
      rw [hc] at hn
      cases hn

/-- A write to an unmapped address faults and changes nothing. -/
theorem memWrite_unmapped {a : Word} (v : Byte) {s : State} (h : ¬ s.mapped a) : memWrite a v s = .fault ⟨a, .write⟩ s := by
  obtain ⟨hz, hlo, hhi⟩ := State.not_mapped h
  have hn : s.cart.write a.toNat v = none := s.cart.write_none v (by omega) hhi
  unfold memWrite
  dsimp only
  repeat' split
  all_goals first
    | (exfalso; omega)
    | exact absurd (And.right ‹_ ∧ _›) hz
    | simp_all only [reduceCtorEq]

end Sys2Proof.Machine
end

