-- ==== Sys2Proof/Laws/Decode.lean ====
section
/-! SUPPORT. The opcode map's size and the small facts about bytes and rows that the encoder's laws rest on. -/

namespace Sys2Proof

/-- One row for every byte value (30_encoding.md R167). -/
theorem opTable_length : opTable.length = 256 := by
  simp only [opTable, List.length_append]
  rfl

@[simp] theorem Word.lo_wordOf (lo hi : Byte) : Word.lo (wordOf lo hi) = lo := by
  apply BitVec.eq_of_getLsbD_eq
  intro i h
  show (BitVec.extractLsb' 0 8 (hi ++ lo : BitVec (8 + 8))).getLsbD i = _
  rw [BitVec.getLsbD_extractLsb', BitVec.getLsbD_append]
  simp [h]

@[simp] theorem Word.hi_wordOf (lo hi : Byte) : Word.hi (wordOf lo hi) = hi := by
  apply BitVec.eq_of_getLsbD_eq
  intro i h
  show (BitVec.extractLsb' 8 8 (hi ++ lo : BitVec (8 + 8))).getLsbD i = _
  rw [BitVec.getLsbD_extractLsb', BitVec.getLsbD_append]
  simp [h]

@[simp] theorem wordOf_lo_hi (w : Word) : wordOf (Word.lo w) (Word.hi w) = w := by
  apply BitVec.eq_of_getLsbD_eq
  intro i h
  show (BitVec.extractLsb' 8 8 w ++ BitVec.extractLsb' 0 8 w : BitVec (8 + 8)).getLsbD i = _
  rw [BitVec.getLsbD_append, BitVec.getLsbD_extractLsb', BitVec.getLsbD_extractLsb']
  rcases Nat.lt_or_ge i 8 with h8 | h8
  · simp [h8]
  · have h1 : i - 8 < 8 := by omega
    have h2 : 8 + (i - 8) = i := by omega
    simp [h1, h2, Nat.not_lt.mpr h8]

/-- The rows of the map agree with a label's forms: name, mode, and undocumented. -/
def formsMatch (label : String) (forms : UndocForms) : Bool :=
  forms.all fun r => r.2.all fun op => (opRow op).mnemonic == label && (opRow op).mode == r.1 && !(opRow op).documented

/-- The row of a well-formed undocumented instruction. -/
theorem undoc_row {label : String} {forms : UndocForms} {op : Byte} {o : Operand} (hm : formsMatch label forms = true)
    (hw : undocWellFormed forms op o = true) :
    (opRow op).mnemonic = label ∧ (opRow op).mode = o.mode ∧ (opRow op).documented = false := by
  simp only [undocWellFormed, modeListed, Bool.and_eq_true, List.any_eq_true, beq_iff_eq, List.contains_iff_mem] at hw
  obtain ⟨⟨_, r, hr, hop, hmode⟩, _⟩ := hw
  simp only [formsMatch, List.all_eq_true, Bool.and_eq_true, beq_iff_eq, Bool.not_eq_true'] at hm
  obtain ⟨⟨h1, h2⟩, h3⟩ := hm r hr op hop
  exact ⟨h1, h2.trans hmode, h3⟩

end Sys2Proof
end

