-- ==== Sys2Proof/Laws/Ops.lean ====
section
/-! SUPPORT. The stack and the vectors through the bus, the flags' laws, and what exceptions keep. -/

namespace Sys2Proof.Machine

/-! ### The stack -/

/-- 0x0100 | SP is 256 + SP: page 1, always RAM (10_state.md R39). -/
theorem stackAddress_toNat (sp : Byte) : (stackAddress sp).toNat = 256 + sp.toNat := by
  have h : ∀ b : Byte, (stackAddress b).toNat = 256 + b.toNat := by decide
  exact h sp

theorem ramIndex_stack (sp : Byte) : ramIndex (stackAddress sp) = 256 + sp.toNat := by
  have := sp.isLt
  unfold ramIndex
  rw [stackAddress_toNat]
  omega

/-- `Push` writes through the bus (10_state.md R40). -/
theorem push_eq_memWrite (s : State) (v : Byte) :
    memWrite (stackAddress s.cpu.sp) v s = .ok () { s.push v with cpu := s.cpu } := by
  have := s.cpu.sp.isLt
  unfold memWrite
  dsimp only
  rw [if_pos (by rw [stackAddress_toNat]; omega)]
  rfl

/-- `Pull` reads through the bus (10_state.md R40). -/
theorem pull_eq_memRead (s : State) :
    memRead (stackAddress (s.cpu.sp + 1)) s.afterPull = .ok s.pulledByte s.afterPull := by
  have := (s.cpu.sp + 1).isLt
  rw [memRead_ram _ (by rw [stackAddress_toNat]; omega)]
  rfl

/-- A vector is read through the bus, without side effects (20_memory.md R114). -/
theorem readVector_eq_memRead16 {vec : Word} (h1 : 0x8000 ≤ vec.toNat) (h2 : vec.toNat < 0xFFFF) (s : State) :
    memRead16 vec s = .ok (readVector vec s) s := by
  have hn : (vec + 1).toNat = vec.toNat + 1 := by
    rw [BitVec.toNat_add]
    simp
    omega
  have hb : ∀ a : Word, 0x8000 ≤ a.toNat → memRead a s = .ok (s.cart.prgRead a.toNat) s := fun a ha =>
    memRead_memoryByte (by unfold State.memoryByte; rw [if_neg (by omega), if_pos ha])
  unfold memRead16
  rw [hb vec h1, Res.andThen_ok_left, hb (vec + 1) (by omega)]
  rfl

theorem State.setSp_inv {s : State} (h : s.Inv) (v : Byte) : (s.setSp v).Inv :=
  ⟨h.flags, h.ram, h.port1, h.port2, h.ppu, h.cart, h.halted⟩

theorem State.push_inv {s : State} (h : s.Inv) (v : Byte) : (s.push v).Inv := State.setSp_inv (State.writeRam_inv h _ v) _

theorem State.push16_inv {s : State} (h : s.Inv) (w : Word) : (s.push16 w).Inv := State.push_inv (State.push_inv h _) _

theorem State.afterPull_inv {s : State} (h : s.Inv) : s.afterPull.Inv := State.setSp_inv h _

/-- A state that differs from an invariant one in the processor only, its flags still legal. -/
theorem State.Inv.cpu {s : State} (h : s.Inv) (c : Cpu) (hf : c.flags.Inv) : State.Inv { s with cpu := c } :=
  ⟨hf, h.ram, h.port1, h.port2, h.ppu, h.cart, h.halted⟩

/-! ### Flags -/

theorem Flags.pulled_inv (p : Byte) : (Flags.pulled p).Inv := ⟨rfl, rfl⟩

/-- The packing of R37, bit by bit. -/
theorem Flags.unpack_pack (f : Flags) : Flags.unpack f.pack = f := by
  obtain ⟨c, z, i, d, b, u, v, n⟩ := f
  revert c z i d b u v n
  decide

theorem Flags.pack_unpack (p : Byte) : (Flags.unpack p).pack = p := by
  have h : ∀ q : Byte, (Flags.unpack q).pack = q := by decide
  exact h p

/-- What a pull of a pushed status gives: the flags themselves, where the stored B and U are as R37 says. -/
theorem Flags.pulled_pushed {f : Flags} (h : f.Inv) : Flags.pulled f.pushed = f := by
  obtain ⟨c, z, i, d, b, u, v, n⟩ := f
  obtain ⟨hb, hu⟩ := h
  simp only at hb hu
  subst hb hu
  revert c z i d v n
  decide

/-! ### Exceptions -/

theorem takeException_inv {s : State} (h : s.Inv) (vec : Word) : (takeException vec s).Inv := by
  have hp := State.push_inv (State.push16_inv h s.cpu.pc) s.cpu.flags.pushed
  exact hp.cpu _ ⟨h.flags.1, h.flags.2⟩

theorem enterInterrupt_inv {s : State} (h : s.Inv) (vec : Word) : (enterInterrupt vec s).Inv :=
  (takeException_inv h vec).cpu _ (takeException_inv h vec).flags

theorem serviceInterrupt_inv {s : State} (h : s.Inv) : (serviceInterrupt s).Inv := by
  unfold serviceInterrupt
  split
  · exact enterInterrupt_inv h _
  · exact h

theorem returnFromException_inv {s : State} (h : s.Inv) : (returnFromException s).Inv :=
  h.cpu _ (Flags.pulled_inv _)

/-- What an interrupt entry leaves alone: RAM outside the stack, the cartridge, the picture unit, the controllers. -/
theorem enterInterrupt_frame (vec : Word) (s : State) :
    (enterInterrupt vec s).port1 = s.port1 ∧ (enterInterrupt vec s).port2 = s.port2 ∧
    (enterInterrupt vec s).ppu = s.ppu ∧ (enterInterrupt vec s).cart = s.cart ∧
    (enterInterrupt vec s).halted = s.halted ∧ (enterInterrupt vec s).faultRecord = s.faultRecord ∧
    (enterInterrupt vec s).cfg = s.cfg ∧ (enterInterrupt vec s).cpu.stall = s.cpu.stall := by
  simp [enterInterrupt, takeException, State.push16]

theorem serviceInterrupt_frame (s : State) :
    (serviceInterrupt s).ppu = s.ppu ∧ (serviceInterrupt s).cart = s.cart ∧ (serviceInterrupt s).halted = s.halted ∧
    (serviceInterrupt s).faultRecord = s.faultRecord ∧ (serviceInterrupt s).cfg = s.cfg ∧
    (serviceInterrupt s).cpu.stall = s.cpu.stall := by
  unfold serviceInterrupt
  split
  · obtain ⟨_, _, h3, h4, h5, h6, h7, h8⟩ := enterInterrupt_frame ‹_› s
    exact ⟨h3, h4, h5, h6, h7, h8⟩
  · exact ⟨rfl, rfl, rfl, rfl, rfl, rfl⟩

/-- An interrupt service never lowers the cycle counter. -/
theorem serviceInterrupt_cycles (s : State) : s.cpu.cycles ≤ (serviceInterrupt s).cpu.cycles := by
  unfold serviceInterrupt
  split
  · simp [enterInterrupt, takeException, State.push16]
  · exact Nat.le_refl _

end Sys2Proof.Machine
end

