-- ==== Sys2Proof/Laws/Exec.lean ====
section
/-! SUPPORT. `perform` once and for all: what it does for every operand form but the indirect jump, what an answer of it says,
and what each shared handler keeps. -/

namespace Sys2Proof.Machine

/-! ### Addresses -/

theorem zeroPageAddress_lt (zp : Byte) : (zeroPageAddress zp).toNat < 0x2000 := by
  have : (zeroPageAddress zp).toNat = zp.toNat := by
    unfold zeroPageAddress
    rw [BitVec.toNat_setWidth]
    have := zp.isLt
    omega
  have := zp.isLt
  omega

theorem ramIndex_zeroPage (zp : Byte) : ramIndex (zeroPageAddress zp) = zp.toNat := by
  have := zp.isLt
  unfold ramIndex zeroPageAddress
  rw [BitVec.toNat_setWidth]
  omega

/-- The page wrap of R111 in page zero. -/
theorem nextInPage_zeroPage (zp : Byte) : nextInPage (zeroPageAddress zp) = zeroPageAddress (zp + 1) := by
  have h : ∀ b : Byte, nextInPage (zeroPageAddress b) = zeroPageAddress (b + 1) := by decide
  exact h zp

/-- A pointer read in page zero has no side effect (20_memory.md R103, R111). -/
theorem memReadPage_zeroPage (zp : Byte) (s : State) :
    memReadPage (zeroPageAddress zp) s = .ok (s.zeroPagePointer zp) s := by
  unfold memReadPage
  rw [nextInPage_zeroPage, memRead_ram s (zeroPageAddress_lt zp), Res.andThen_ok_left,
    memRead_ram s (zeroPageAddress_lt (zp + 1)), Res.andThen_ok_left, ramIndex_zeroPage, ramIndex_zeroPage]
  rfl

/-- Address resolution of every form but the indirect jump: the effective address, without side effects (R209 to R221). -/
theorem resolve_eq {o : Operand} (s : State) (h : ∀ p, o ≠ .indirect p) :
    resolve o s = .ok ⟨s.ea o, s.crosses o⟩ s := by
  have hbne : ∀ a b : Word, pageDiffers a b = (b.extractLsb' 8 8 != a.extractLsb' 8 8) := fun a b => by
    unfold pageDiffers Word.hi
    exact Bool.eq_iff_iff.mpr (by simp [bne_iff_ne, ne_comm])
  cases o with
  | indirect p => exact absurd rfl (h p)
  | indexedIndirect zp => simp [resolve, memReadPage_zeroPage, State.ea, State.crosses]
  | indirectIndexed zp => simp [resolve, memReadPage_zeroPage, State.ea, State.crosses, indexed, hbne]
  | absoluteX a => simp [resolve, State.ea, State.crosses, indexed, hbne]
  | absoluteY a => simp [resolve, State.ea, State.crosses, indexed, hbne]
  | _ => rfl

theorem advancePast_eq (i : Instr) (s : State) : advancePast i.opcode (s.crosses i.operand) s = s.advanced i := by
  simp [advancePast, State.advanced, State.setPc, State.addCycles, chargedCycles, Nat.add_assoc]

/-- `perform` for every operand form but the indirect jump: the handler on the effective address, in the state past the
instruction (R205 steps 4 to 6). -/
theorem perform_eq {i : Instr} (s : State) (handler : Word → State → Res Unit) (h : ∀ p, i.operand ≠ .indirect p) :
    perform i s handler = (handler (s.ea i.operand) (s.advanced i)).conclude i.opcode := by
  unfold perform
  rw [resolve_eq s h, Res.andThen_ok_left, advancePast_eq]

/-- What an answer of `perform` says. -/
theorem perform_next {i : Instr} {s t : State} {handler : Word → State → Res Unit} (h : perform i s handler = .next t) :
    ∃ e s1, resolve i.operand s = .ok e s1 ∧ handler e.ea (advancePast i.opcode e.crossed s1) = .ok () t := by
  unfold perform at h
  generalize hr : ((resolve i.operand s).andThen fun e s' => handler e.ea (advancePast i.opcode e.crossed s')) = r at h
  cases r with
  | ok v s' =>
    simp only [Res.conclude, Host.Outcome.next.injEq] at h
    subst h
    obtain ⟨e, s1, h1, h2⟩ := Res.andThen_ok.mp hr
    exact ⟨e, s1, h1, h2⟩
  | fault e s' => simp [Res.conclude] at h

/-- What a fault of `perform` says. -/
theorem perform_fault {i : Instr} {s : State} {f : Fault} {handler : Word → State → Res Unit}
    (h : perform i s handler = .fault f) :
    ∃ e u, f = faultOutcome e (some i.opcode) u ∧
      (resolve i.operand s = .fault e u ∨
        ∃ a s1, resolve i.operand s = .ok a s1 ∧ handler a.ea (advancePast i.opcode a.crossed s1) = .fault e u) := by
  unfold perform at h
  generalize hr : ((resolve i.operand s).andThen fun e s' => handler e.ea (advancePast i.opcode e.crossed s')) = r at h
  cases r with
  | ok v s' => simp [Res.conclude] at h
  | fault e u =>
    simp only [Res.conclude, Host.Outcome.fault.injEq] at h
    exact ⟨e, u, h.symm, Res.andThen_fault.mp hr⟩

/-- `perform` never refuses. -/
theorem perform_not_refused {i : Instr} {s : State} {r : Refusal} {handler : Word → State → Res Unit} :
    perform i s handler ≠ .refused r := by
  unfold perform
  cases (resolve i.operand s).andThen fun e s' => handler e.ea (advancePast i.opcode e.crossed s') <;>
    simp [Res.conclude]

theorem memReadPage_frame {a : Word} {s t : State} {w : Word} (h : memReadPage a s = .ok w t) : ReadFrame s t := by
  obtain ⟨lo, s1, h1, h2⟩ := Res.andThen_ok.mp h
  obtain ⟨hi, s2, h3, h4⟩ := Res.andThen_ok.mp h2
  cases h4
  exact (memRead_frame h1).trans (memRead_frame h3)

theorem memReadPage_inv {a : Word} {s t : State} {w : Word} (hi : s.Inv) (h : memReadPage a s = .ok w t) : t.Inv := by
  obtain ⟨lo, s1, h1, h2⟩ := Res.andThen_ok.mp h
  obtain ⟨hi', s2, h3, h4⟩ := Res.andThen_ok.mp h2
  cases h4
  exact memRead_inv (memRead_inv hi h1) h3

/-- Address resolution has read side effects at most. -/
theorem resolve_frame {o : Operand} {s t : State} {e : Effective} (h : resolve o s = .ok e t) : ReadFrame s t := by
  by_cases hp : ∃ p, o = .indirect p
  · obtain ⟨p, rfl⟩ := hp
    obtain ⟨ea, s1, h1, h2⟩ := Res.andThen_ok.mp h
    cases h2
    exact memReadPage_frame h1
  · rw [resolve_eq s (fun p hc => hp ⟨p, hc⟩)] at h
    cases h
    exact ReadFrame.refl s

theorem resolve_inv {o : Operand} {s t : State} {e : Effective} (hi : s.Inv) (h : resolve o s = .ok e t) : t.Inv := by
  by_cases hp : ∃ p, o = .indirect p
  · obtain ⟨p, rfl⟩ := hp
    obtain ⟨ea, s1, h1, h2⟩ := Res.andThen_ok.mp h
    cases h2
    exact memReadPage_inv hi h1
  · rw [resolve_eq s (fun p hc => hp ⟨p, hc⟩)] at h
    cases h
    exact hi

/-! ### What handlers keep -/

/-- What no instruction changes: the interrupt latch, the program bytes, the raster, the frame buffers, the parameters and the
fault state; and the cycle counter only grows. -/
structure ExecFrame (s t : State) : Prop where
  latch : t.cpu.latch = s.cpu.latch
  cycles : s.cpu.cycles ≤ t.cpu.cycles
  prg : t.cart.prg = s.cart.prg
  halted : t.halted = s.halted
  faultRecord : t.faultRecord = s.faultRecord
  cfg : t.cfg = s.cfg
  dot : t.ppu.dot = s.ppu.dot
  scanline : t.ppu.scanline = s.ppu.scanline
  frame : t.ppu.frame = s.ppu.frame
  f : t.ppu.f = s.ppu.f
  front : t.ppu.front = s.ppu.front
  back : t.ppu.back = s.ppu.back

theorem ExecFrame.refl (s : State) : ExecFrame s s :=
  ⟨rfl, Nat.le_refl _, rfl, rfl, rfl, rfl, rfl, rfl, rfl, rfl, rfl, rfl⟩

theorem ExecFrame.trans {s t u : State} (h : ExecFrame s t) (k : ExecFrame t u) : ExecFrame s u :=
  ⟨k.latch.trans h.latch, h.cycles.trans k.cycles, k.prg.trans h.prg, k.halted.trans h.halted,
    k.faultRecord.trans h.faultRecord, k.cfg.trans h.cfg, k.dot.trans h.dot, k.scanline.trans h.scanline,
    k.frame.trans h.frame, k.f.trans h.f, k.front.trans h.front, k.back.trans h.back⟩

theorem WriteFrame.toExecFrame {s t : State} (h : WriteFrame s t) : ExecFrame s t := by
  obtain ⟨n, hn⟩ := h.cpu
  exact ⟨by rw [hn], by rw [hn], h.prg, h.halted, h.faultRecord, h.cfg, h.dot, h.scanline, h.frame, h.f, h.front, h.back⟩

theorem ReadFrame.toExecFrame {s t : State} (h : ReadFrame s t) : ExecFrame s t := h.toWriteFrame.toExecFrame

/-- `t` is reached from `s` as an instruction may: the frame is kept, and the invariant with it. -/
def Keeps (s t : State) : Prop := ExecFrame s t ∧ (s.Inv → t.Inv)

theorem Keeps.refl (s : State) : Keeps s s := ⟨ExecFrame.refl s, id⟩

theorem Keeps.trans {s t u : State} (h : Keeps s t) (k : Keeps t u) : Keeps s u := ⟨h.1.trans k.1, k.2 ∘ h.2⟩

/-- A change of the processor that leaves the latch, legal flags, and does not lower the counter. -/
theorem Keeps.cpu (s : State) (c : Cpu) (hl : c.latch = s.cpu.latch) (hc : s.cpu.cycles ≤ c.cycles)
    (hf : s.cpu.flags.Inv → c.flags.Inv) : Keeps s { s with cpu := c } :=
  ⟨⟨hl, hc, rfl, rfl, rfl, rfl, rfl, rfl, rfl, rfl, rfl, rfl⟩, fun h => h.cpu c (hf h.flags)⟩

theorem memRead_keeps {a : Word} {s t : State} {b : Byte} (h : memRead a s = .ok b t) : Keeps s t :=
  ⟨(memRead_frame h).toExecFrame, fun hi => memRead_inv hi h⟩

theorem memWrite_keeps {a : Word} {v : Byte} {s t : State} (h : memWrite a v s = .ok () t) : Keeps s t :=
  ⟨((memWrite_spec a v s).1 t h).1.toExecFrame, ((memWrite_spec a v s).1 t h).2⟩

theorem resolve_keeps {o : Operand} {s t : State} {e : Effective} (h : resolve o s = .ok e t) : Keeps s t :=
  ⟨(resolve_frame h).toExecFrame, fun hi => resolve_inv hi h⟩

theorem advancePast_keeps (op : Byte) (c : Bool) (s : State) : Keeps s (advancePast op c s) :=
  Keeps.cpu s _ rfl (Nat.le_add_right _ _) id

theorem setA_keeps (s : State) (v : Byte) : Keeps s (s.setA v) := Keeps.cpu s _ rfl (Nat.le_refl _) id

theorem setX_keeps (s : State) (v : Byte) : Keeps s (s.setX v) := Keeps.cpu s _ rfl (Nat.le_refl _) id

theorem setY_keeps (s : State) (v : Byte) : Keeps s (s.setY v) := Keeps.cpu s _ rfl (Nat.le_refl _) id

theorem setSp_keeps (s : State) (v : Byte) : Keeps s (s.setSp v) := Keeps.cpu s _ rfl (Nat.le_refl _) id

theorem setPc_keeps (s : State) (v : Word) : Keeps s (s.setPc v) := Keeps.cpu s _ rfl (Nat.le_refl _) id

theorem addCycles_keeps (s : State) (n : Nat) : Keeps s (s.addCycles n) := Keeps.cpu s _ rfl (Nat.le_add_right _ _) id

theorem setFlags_keeps (s : State) (f : Flags) (h : s.cpu.flags.Inv → f.Inv) : Keeps s (s.setFlags f) :=
  Keeps.cpu s _ rfl (Nat.le_refl _) h

theorem setZN_keeps (s : State) (v : Byte) : Keeps s (s.setZN v) := setFlags_keeps s _ fun h => ⟨h.1, h.2⟩

theorem loadA_keeps (s : State) (m : Byte) : Keeps s (loadA m s) := (setA_keeps s m).trans (setZN_keeps _ m)

theorem loadX_keeps (s : State) (m : Byte) : Keeps s (loadX m s) := (setX_keeps s m).trans (setZN_keeps _ m)

theorem loadY_keeps (s : State) (m : Byte) : Keeps s (loadY m s) := (setY_keeps s m).trans (setZN_keeps _ m)

theorem writeRam_keeps (s : State) (a : Word) (v : Byte) : Keeps s (s.writeRam a v) :=
  ⟨⟨rfl, Nat.le_refl _, rfl, rfl, rfl, rfl, rfl, rfl, rfl, rfl, rfl, rfl⟩, fun h => State.writeRam_inv h a v⟩

theorem push_keeps (s : State) (v : Byte) : Keeps s (s.push v) := (writeRam_keeps s _ v).trans (setSp_keeps _ _)

theorem push16_keeps (s : State) (w : Word) : Keeps s (s.push16 w) := (push_keeps s _).trans (push_keeps _ _)

theorem afterPull_keeps (s : State) : Keeps s s.afterPull := setSp_keeps s _

theorem afterPull16_keeps (s : State) : Keeps s s.afterPull16 := (afterPull_keeps s).trans (afterPull_keeps _)

theorem takeException_keeps (vec : Word) (s : State) : Keeps s (takeException vec s) := by
  have hp := (push16_keeps s s.cpu.pc).trans (push_keeps _ s.cpu.flags.pushed)
  have hf := setFlags_keeps ((s.push16 s.cpu.pc).push s.cpu.flags.pushed)
    { ((s.push16 s.cpu.pc).push s.cpu.flags.pushed).cpu.flags with i := true } fun h => ⟨h.1, h.2⟩
  exact (hp.trans hf).trans (setPc_keeps _ (readVector vec _))

theorem returnFromException_keeps (s : State) : Keeps s (returnFromException s) :=
  ((afterPull_keeps s).trans (setFlags_keeps _ _ fun _ => Flags.pulled_inv _)).trans
    ((afterPull16_keeps _).trans (setPc_keeps _ _))

/-- A handler keeps the frame and the invariant whenever it answers. -/
def HandlerKeeps (h : Word → State → Res Unit) : Prop := ∀ ea s t, h ea s = .ok () t → Keeps s t

theorem operandByte_keeps {o : Operand} {ea : Word} {s t : State} {b : Byte} (h : operandByte o ea s = .ok b t) : Keeps s t := by
  unfold operandByte at h
  split at h
  · cases h; exact Keeps.refl s
  · exact memRead_keeps h

theorem readingM_keeps (o : Operand) {f : Byte → State → State} (hf : ∀ m s, Keeps s (f m s)) :
    HandlerKeeps (readingM o f) := by
  intro ea s t h
  obtain ⟨m, s1, h1, h2⟩ := Res.andThen_ok.mp h
  cases h2
  exact (operandByte_keeps h1).trans (hf m s1)

theorem changing_keeps {f : State → State} (hf : ∀ s, Keeps s (f s)) : HandlerKeeps (changing f) := by
  intro ea s t h
  cases h
  exact hf s

theorem storing_keeps (f : State → Byte) : HandlerKeeps (storing f) := fun _ _ _ h => memWrite_keeps h

theorem modifying_keeps (f : Bool → Byte → Byte) {g : Flags → Byte → Flags} (hg : ∀ fl m, fl.Inv → (g fl m).Inv) :
    HandlerKeeps (modifying f g) := by
  intro ea s t h
  obtain ⟨m, s1, h1, h2⟩ := Res.andThen_ok.mp h
  obtain ⟨⟨⟩, s2, h3, h4⟩ := Res.andThen_ok.mp h2
  simp only [Res.ok.injEq, true_and] at h4
  subst h4
  have k1 : Keeps s s1 := memRead_keeps h1
  have k2 : Keeps s1 s2 := memWrite_keeps h3
  have k3 : Keeps s2 (s2.setFlags (g s2.cpu.flags m)) := setFlags_keeps s2 (g s2.cpu.flags m) (hg s2.cpu.flags m)
  exact (k1.trans k2).trans k3

theorem shifting_keeps (op : Bool → Byte → Shifted) (o : ShiftOperand) : HandlerKeeps (shifting op o) := by
  intro ea s t h
  have hs : ∀ (f : Flags) r, f.Inv → (f.ofShift r).Inv := fun f r hf => ⟨hf.1, hf.2⟩
  cases o with
  | accumulator =>
    cases h
    exact (setA_keeps s _).trans (setFlags_keeps _ _ (hs _ _))
  | _ =>
    exact modifying_keeps (fun c m => (op c m).result) (g := fun f m => f.ofShift (op f.c m)) (fun f _ => hs f _) ea s t h

theorem branching_keeps (cond : Flags → Bool) : HandlerKeeps (branching cond) := by
  intro ea s t h
  unfold branching at h
  split at h
  · cases h; exact (addCycles_keeps s _).trans (setPc_keeps _ _)
  · cases h; exact Keeps.refl s

/-- A meaning built on a keeping handler keeps the frame and the invariant whenever it answers. -/
theorem perform_keeps {i : Instr} {s t : State} {handler : Word → State → Res Unit} (hk : HandlerKeeps handler)
    (h : perform i s handler = .next t) : Keeps s t := by
  obtain ⟨e, s1, h1, h2⟩ := perform_next h
  exact ((resolve_keeps h1).trans (advancePast_keeps _ _ _)).trans (hk _ _ _ h2)

/-- A meaning built on a keeping handler charges at least the base cycles of its opcode. -/
theorem perform_cycles {i : Instr} {s t : State} {handler : Word → State → Res Unit} (hk : HandlerKeeps handler)
    (h : perform i s handler = .next t) : s.cpu.cycles + opBaseCycles i.opcode ≤ t.cpu.cycles := by
  obtain ⟨e, s1, h1, h2⟩ := perform_next h
  have h3 := (hk _ _ _ h2).1.cycles
  have h4 : (advancePast i.opcode e.crossed s1).cpu.cycles = s1.cpu.cycles + chargedCycles i.opcode e.crossed := rfl
  rw [h4, (resolve_frame h1).cpu] at h3
  unfold chargedCycles at h3
  omega

end Sys2Proof.Machine
end

