-- ==== Sys2Proof/Laws/Load.lean ====
section
/-! SUPPORT. The load's zero-fill, the state after reset as a load of empty arrays, and the invariant's pieces at reset. -/

namespace Sys2Proof.Machine

/-- `State.reset` is the load of two empty arrays with selector 0, under its parameters (log 6). -/
theorem reset_is_load : State.load { Config.spec with undocMode := .noop } [] [] 0 = .ok State.reset := rfl

/-- The zero-filled length is a positive multiple of the unit that holds the array (70_reset_and_hazards.md R726). -/
theorem zeroFillLength_spec {unit : Nat} (h : 0 < unit) (len : Nat) :
    0 < zeroFillLength len unit ∧ unit ∣ zeroFillLength len unit ∧ len ≤ zeroFillLength len unit := by
  unfold zeroFillLength
  refine ⟨Nat.mul_pos (by omega) h, Nat.dvd_mul_left _ _, ?_⟩
  have h1 : len ≤ (len + unit - 1) / unit * unit := by
    have hd := Nat.div_add_mod (len + unit - 1) unit
    have hm := Nat.mod_lt (len + unit - 1) h
    have hc : unit * ((len + unit - 1) / unit) = (len + unit - 1) / unit * unit := Nat.mul_comm _ _
    omega
  exact h1.trans (Nat.mul_le_mul_right _ (Nat.le_max_right _ _))

/-- A loaded array keeps its bytes inside its length. -/
theorem Rom.ofBytes_inv {unit : Nat} (h : 0 < unit) (bytes : List Byte) :
    Sparse.Inv (Rom.ofBytes bytes unit).len (Rom.ofBytes bytes unit).cells :=
  Memory.ofBytes_inv bytes (zeroFillLength_spec h _).2.2

/-- A byte of a loaded array is the input's, and 0 after it (R726). -/
theorem Rom.read_ofBytes (bytes : List Byte) (unit i : Nat) : (Rom.ofBytes bytes unit).read i = bytes.getD i 0 :=
  Memory.read_ofBytes bytes i

/-- The windows of a freshly loaded mapper stay inside the arrays (62_mappers.md R663, R677, R699). -/
theorem Mapper.loaded_room (cfg : Config) (v : Variant) {p c : Nat} (hp : 0 < p ∧ (Mapper.loaded cfg p c v).prgUnit ∣ p)
    (hc : 0 < c ∧ 0x2000 ∣ c) : (Mapper.loaded cfg p c v).Room p c := by
  cases v with
  | fixedChr => trivial
  | shiftReg => exact ShiftReg.updateOffsets_room _ hp hc
  | scanlineIrq =>
    have hb := fun k => bankOffset_room k (size := 0x2000) (by decide) hp.1 hp.2
    refine ⟨fun i hi => ?_, fun i hi => ?_⟩
    · have : i = 0 ∨ i = 1 ∨ i = 2 ∨ i = 3 := by omega
      rcases this with rfl | rfl | rfl | rfl <;> exact hb _
    · have : 0x2000 ≤ c := Nat.le_of_dvd hc.1 hc.2
      simp [ScanlineIrq.loaded]
      omega

theorem Ppu.reset_inv : Ppu.reset.Inv :=
  ⟨by decide, by decide, by decide, rfl, Sparse.Inv.nil, Sparse.Inv.nil, Sparse.Inv.nil, Sparse.Inv.nil, Sparse.Inv.nil⟩

end Sys2Proof.Machine
end

