-- ==== Sys2Proof/Laws/PerInstr.lean ====
section
/-! SUPPORT. The per-instruction family `EncodedRow`: the opcode the encoder writes for an instruction (from the rules' Encodings
lines) is the opcode map's row of that mnemonic and mode (30_encoding.md R167, R168). One lemma per constructor of `Instr`. -/

namespace Sys2Proof.Laws.EncodedRow

open Sys2Proof

/-- The row at the encoder's opcode has the instruction's mnemonic and mode, and is documented exactly when the instruction is. -/
def Statement (i : Instr) : Prop :=
  i.wf = true → (opRow i.opcode).mnemonic = i.mnemonic ∧ (opRow i.opcode).mode = i.operand.mode ∧
    (opRow i.opcode).documented = i.undoc.isNone

theorem lda (o : ReadOperand) : Statement (.lda o) := by
  intro _; cases o <;> exact ⟨rfl, rfl, rfl⟩

theorem ldx (o : LdxOperand) : Statement (.ldx o) := by
  intro _; cases o <;> exact ⟨rfl, rfl, rfl⟩

theorem ldy (o : LdyOperand) : Statement (.ldy o) := by
  intro _; cases o <;> exact ⟨rfl, rfl, rfl⟩

theorem sta (o : StaOperand) : Statement (.sta o) := by
  intro _; cases o <;> exact ⟨rfl, rfl, rfl⟩

theorem stx (o : StxOperand) : Statement (.stx o) := by
  intro _; cases o <;> exact ⟨rfl, rfl, rfl⟩

theorem sty (o : StyOperand) : Statement (.sty o) := by
  intro _; cases o <;> exact ⟨rfl, rfl, rfl⟩

theorem tax : Statement .tax := fun _ => ⟨rfl, rfl, rfl⟩

theorem tay : Statement .tay := fun _ => ⟨rfl, rfl, rfl⟩

theorem txa : Statement .txa := fun _ => ⟨rfl, rfl, rfl⟩

theorem tya : Statement .tya := fun _ => ⟨rfl, rfl, rfl⟩

theorem tsx : Statement .tsx := fun _ => ⟨rfl, rfl, rfl⟩

theorem txs : Statement .txs := fun _ => ⟨rfl, rfl, rfl⟩

theorem adc (o : ReadOperand) : Statement (.adc o) := by
  intro _; cases o <;> exact ⟨rfl, rfl, rfl⟩

theorem sbc (o : ReadOperand) : Statement (.sbc o) := by
  intro _; cases o <;> exact ⟨rfl, rfl, rfl⟩

theorem and (o : ReadOperand) : Statement (.and o) := by
  intro _; cases o <;> exact ⟨rfl, rfl, rfl⟩

theorem ora (o : ReadOperand) : Statement (.ora o) := by
  intro _; cases o <;> exact ⟨rfl, rfl, rfl⟩

theorem eor (o : ReadOperand) : Statement (.eor o) := by
  intro _; cases o <;> exact ⟨rfl, rfl, rfl⟩

theorem bit (o : BitOperand) : Statement (.bit o) := by
  intro _; cases o <;> exact ⟨rfl, rfl, rfl⟩

theorem cmp (o : ReadOperand) : Statement (.cmp o) := by
  intro _; cases o <;> exact ⟨rfl, rfl, rfl⟩

theorem cpx (o : IndexOperand) : Statement (.cpx o) := by
  intro _; cases o <;> exact ⟨rfl, rfl, rfl⟩

theorem cpy (o : IndexOperand) : Statement (.cpy o) := by
  intro _; cases o <;> exact ⟨rfl, rfl, rfl⟩

theorem inc (o : ModifyOperand) : Statement (.inc o) := by
  intro _; cases o <;> exact ⟨rfl, rfl, rfl⟩

theorem dec (o : ModifyOperand) : Statement (.dec o) := by
  intro _; cases o <;> exact ⟨rfl, rfl, rfl⟩

theorem inx : Statement .inx := fun _ => ⟨rfl, rfl, rfl⟩

theorem iny : Statement .iny := fun _ => ⟨rfl, rfl, rfl⟩

theorem dex : Statement .dex := fun _ => ⟨rfl, rfl, rfl⟩

theorem dey : Statement .dey := fun _ => ⟨rfl, rfl, rfl⟩

theorem asl (o : ShiftOperand) : Statement (.asl o) := by
  intro _; cases o <;> exact ⟨rfl, rfl, rfl⟩

theorem lsr (o : ShiftOperand) : Statement (.lsr o) := by
  intro _; cases o <;> exact ⟨rfl, rfl, rfl⟩

theorem rol (o : ShiftOperand) : Statement (.rol o) := by
  intro _; cases o <;> exact ⟨rfl, rfl, rfl⟩

theorem ror (o : ShiftOperand) : Statement (.ror o) := by
  intro _; cases o <;> exact ⟨rfl, rfl, rfl⟩

theorem bcc (off : Byte) : Statement (.bcc off) := fun _ => ⟨rfl, rfl, rfl⟩

theorem bcs (off : Byte) : Statement (.bcs off) := fun _ => ⟨rfl, rfl, rfl⟩

theorem beq (off : Byte) : Statement (.beq off) := fun _ => ⟨rfl, rfl, rfl⟩

theorem bmi (off : Byte) : Statement (.bmi off) := fun _ => ⟨rfl, rfl, rfl⟩

theorem bne (off : Byte) : Statement (.bne off) := fun _ => ⟨rfl, rfl, rfl⟩

theorem bpl (off : Byte) : Statement (.bpl off) := fun _ => ⟨rfl, rfl, rfl⟩

theorem bvc (off : Byte) : Statement (.bvc off) := fun _ => ⟨rfl, rfl, rfl⟩

theorem bvs (off : Byte) : Statement (.bvs off) := fun _ => ⟨rfl, rfl, rfl⟩

theorem jmp (o : JumpOperand) : Statement (.jmp o) := by
  intro _; cases o <;> exact ⟨rfl, rfl, rfl⟩

theorem jsr (addr : Word) : Statement (.jsr addr) := fun _ => ⟨rfl, rfl, rfl⟩

theorem rts : Statement .rts := fun _ => ⟨rfl, rfl, rfl⟩

theorem pha : Statement .pha := fun _ => ⟨rfl, rfl, rfl⟩

theorem php : Statement .php := fun _ => ⟨rfl, rfl, rfl⟩

theorem pla : Statement .pla := fun _ => ⟨rfl, rfl, rfl⟩

theorem plp : Statement .plp := fun _ => ⟨rfl, rfl, rfl⟩

theorem clc : Statement .clc := fun _ => ⟨rfl, rfl, rfl⟩

theorem cld : Statement .cld := fun _ => ⟨rfl, rfl, rfl⟩

theorem cli : Statement .cli := fun _ => ⟨rfl, rfl, rfl⟩

theorem clv : Statement .clv := fun _ => ⟨rfl, rfl, rfl⟩

theorem sec : Statement .sec := fun _ => ⟨rfl, rfl, rfl⟩

theorem sed : Statement .sed := fun _ => ⟨rfl, rfl, rfl⟩

theorem sei : Statement .sei := fun _ => ⟨rfl, rfl, rfl⟩

theorem brk : Statement .brk := fun _ => ⟨rfl, rfl, rfl⟩

theorem rti : Statement .rti := fun _ => ⟨rfl, rfl, rfl⟩

theorem nop : Statement .nop := fun _ => ⟨rfl, rfl, rfl⟩

theorem kil (op : Byte) (o : Operand) : Statement (.kil op o) := fun hw =>
  undoc_row (label := "KIL*") (by decide) hw

theorem nopUndoc (op : Byte) (o : Operand) : Statement (.nopUndoc op o) := fun hw =>
  undoc_row (label := "NOP*") (by decide) hw

theorem slo (op : Byte) (o : Operand) : Statement (.slo op o) := fun hw =>
  undoc_row (label := "SLO*") (by decide) hw

theorem rla (op : Byte) (o : Operand) : Statement (.rla op o) := fun hw =>
  undoc_row (label := "RLA*") (by decide) hw

theorem sre (op : Byte) (o : Operand) : Statement (.sre op o) := fun hw =>
  undoc_row (label := "SRE*") (by decide) hw

theorem rra (op : Byte) (o : Operand) : Statement (.rra op o) := fun hw =>
  undoc_row (label := "RRA*") (by decide) hw

theorem dcp (op : Byte) (o : Operand) : Statement (.dcp op o) := fun hw =>
  undoc_row (label := "DCP*") (by decide) hw

theorem isc (op : Byte) (o : Operand) : Statement (.isc op o) := fun hw =>
  undoc_row (label := "ISC*") (by decide) hw

theorem sax (op : Byte) (o : Operand) : Statement (.sax op o) := fun hw =>
  undoc_row (label := "SAX*") (by decide) hw

theorem lax (op : Byte) (o : Operand) : Statement (.lax op o) := fun hw =>
  undoc_row (label := "LAX*") (by decide) hw

theorem anc (op : Byte) (o : Operand) : Statement (.anc op o) := fun hw =>
  undoc_row (label := "ANC*") (by decide) hw

theorem alr (op : Byte) (o : Operand) : Statement (.alr op o) := fun hw =>
  undoc_row (label := "ALR*") (by decide) hw

theorem arr (op : Byte) (o : Operand) : Statement (.arr op o) := fun hw =>
  undoc_row (label := "ARR*") (by decide) hw

theorem xaa (op : Byte) (o : Operand) : Statement (.xaa op o) := fun hw =>
  undoc_row (label := "XAA*") (by decide) hw

theorem axs (op : Byte) (o : Operand) : Statement (.axs op o) := fun hw =>
  undoc_row (label := "AXS*") (by decide) hw

theorem sbcUndoc (op : Byte) (o : Operand) : Statement (.sbcUndoc op o) := fun hw =>
  undoc_row (label := "SBC*") (by decide) hw

theorem ahx (op : Byte) (o : Operand) : Statement (.ahx op o) := fun hw =>
  undoc_row (label := "AHX*") (by decide) hw

theorem shy (op : Byte) (o : Operand) : Statement (.shy op o) := fun hw =>
  undoc_row (label := "SHY*") (by decide) hw

theorem shx (op : Byte) (o : Operand) : Statement (.shx op o) := fun hw =>
  undoc_row (label := "SHX*") (by decide) hw

theorem tas (op : Byte) (o : Operand) : Statement (.tas op o) := fun hw =>
  undoc_row (label := "TAS*") (by decide) hw

theorem las (op : Byte) (o : Operand) : Statement (.las op o) := fun hw =>
  undoc_row (label := "LAS*") (by decide) hw

end Sys2Proof.Laws.EncodedRow
end

