-- ==== Sys2Proof/Laws/Step.lean ====
section
/-! SUPPORT. What an answer of `step` says: halted, a stall step, or the interrupt service, the fetch and the instruction,
followed by the picture and mapper steps. -/

namespace Sys2Proof.Machine

/-- The reads of the operand bytes have read side effects at most. -/
theorem operandBytes_keeps {op : Byte} {s t : State} {b : Byte × Byte} (h : operandBytes op s = .ok b t) :
    Keeps s t ∧ t.cpu = s.cpu := by
  unfold operandBytes at h
  split at h
  · cases h; exact ⟨Keeps.refl s, rfl⟩
  · obtain ⟨lo, s1, h1, h2⟩ := Res.andThen_ok.mp h
    cases h2
    exact ⟨memRead_keeps h1, (memRead_frame h1).cpu⟩
  · obtain ⟨lo, s1, h1, h2⟩ := Res.andThen_ok.mp h
    obtain ⟨hi, s2, h3, h4⟩ := Res.andThen_ok.mp h2
    cases h4
    exact ⟨(memRead_keeps h1).trans (memRead_keeps h3), (memRead_frame h3).cpu.trans (memRead_frame h1).cpu⟩

/-- A fault of the operand reads is at an unmapped address, and keeps what the earlier reads changed. -/
theorem operandBytes_fault {op : Byte} {s t : State} {e : BusFault} (h : operandBytes op s = .fault e t) :
    Keeps s t ∧ e.access = .read ∧ ¬ s.mapped e.address := by
  unfold operandBytes at h
  split at h
  · cases h
  · rcases Res.andThen_fault.mp h with h1 | ⟨lo, s1, h1, h2⟩
    · obtain ⟨rfl, rfl, hm⟩ := memRead_fault h1
      exact ⟨Keeps.refl _, rfl, hm⟩
    · cases h2
  · rcases Res.andThen_fault.mp h with h1 | ⟨lo, s1, h1, h2⟩
    · obtain ⟨rfl, rfl, hm⟩ := memRead_fault h1
      exact ⟨Keeps.refl _, rfl, hm⟩
    · rcases Res.andThen_fault.mp h2 with h3 | ⟨hi, s2, h3, h4⟩
      · obtain ⟨rfl, rfl, hm⟩ := memRead_fault h3
        exact ⟨memRead_keeps h1, rfl, by simpa [State.mapped, (memRead_frame h1).cfg] using hm⟩
      · cases h4

/-- What a fetched instruction is: the row's instruction of the opcode and operand bytes read at the program counter. -/
theorem fetch_instr {s t : State} {i : Instr} (h : fetch s = .instr i t) :
    ∃ op s1 lo hi, memRead s.cpu.pc s = .ok op s1 ∧ refusesOpcode s1.cfg op = false ∧
      operandBytes op s1 = .ok (lo, hi) t ∧ i = (opRow op).build lo hi := by
  unfold fetch at h
  split at h
  · rename_i op s1 h1
    unfold fetchOperands at h
    split at h
    · cases h
    · split at h
      · rename_i lo hi s2 h2
        cases h
        exact ⟨op, s1, lo, hi, h1, Bool.eq_false_iff.mpr ‹¬ _›, h2, rfl⟩
      · cases h
  · cases h

theorem fetch_keeps {s t : State} {i : Instr} (h : fetch s = .instr i t) : Keeps s t ∧ t.cpu = s.cpu := by
  obtain ⟨op, s1, lo, hi, h1, _, h2, _⟩ := fetch_instr h
  obtain ⟨hk, hc⟩ := operandBytes_keeps h2
  exact ⟨(memRead_keeps h1).trans hk, hc.trans (memRead_frame h1).cpu⟩

/-- The inversion of an answering step. -/
theorem step_next {s t : State} (h : step s = .next t) :
    (s.halted = true ∧ t = s) ∨
    (s.halted = false ∧ 0 < s.cpu.stall ∧
      t = runPicture 3 { s with cpu := { s.cpu with stall := s.cpu.stall - 1 } }) ∨
    (s.halted = false ∧ s.cpu.stall = 0 ∧ ∃ i s1 s2, fetch (serviceInterrupt s) = .instr i s1 ∧ exec i s1 = .next s2 ∧
      t = runPicture (3 * (s2.cpu.cycles - s.cpu.cycles)) s2) := by
  unfold step at h
  split at h
  · rename_i hh
    cases h
    exact .inl ⟨hh, rfl⟩
  · rename_i hh
    have hh' : s.halted = false := by simpa using hh
    unfold cpuStep at h
    by_cases hst : 0 < s.cpu.stall
    · rw [if_pos hst] at h
      simp only [stepCycles, if_pos hst, Host.Outcome.next.injEq] at h
      exact .inr (.inl ⟨hh', hst, h.symm⟩)
    · rw [if_neg hst] at h
      unfold fetchAndExecute at h
      split at h
      · rename_i s2 h2
        simp only [Host.Outcome.next.injEq] at h
        simp only [stepCycles, if_neg hst] at h
        split at h2
        · rename_i i s1 hf
          exact .inr (.inr ⟨hh', by omega, i, s1, s2, hf, h2, h.symm⟩)
        · cases h2
        · cases h2
      · cases h
      · cases h

end Sys2Proof.Machine
end

