-- ==== Sys2Proof/Tests/Slice0.lean ====
section
/-! SUPPORT. The model's own tests: the well-formedness checks refuse ill-formed terms, words written out from the spec decode to
their instructions, the spec's vectors (95_test_vectors.md, named in each docstring) hold, and every statement with hypotheses
has a state and operands that meet them. -/

namespace Sys2Proof.Tests

open Sys2Proof.Machine Sys2Proof.Claim

/-! ### Helpers -/

/-- The machine after reset with the program counter at 0x0200, bytes stored, and the processor changed as said. -/
def machine (bytes : List (Word × Byte)) (cpu : Cpu → Cpu) : State :=
  let s := bytes.foldl (fun s e => pokeByte e.1 e.2 s) { State.reset with cpu := { State.reset.cpu with pc := 0x0200#16 } }
  { s with cpu := cpu s.cpu }

/-- The machine with the parameters changed. -/
def State.withCfg (f : Config → Config) (s : State) : State := { s with cfg := f s.cfg }

/-- The machine with the picture unit changed. -/
def State.withPpu (f : Ppu → Ppu) (s : State) : State := { s with ppu := f s.ppu }

/-- A view of the next state, if there is one. -/
def seen {α : Type} (view : State → α) : Host.Outcome State Fault Refusal → Option α
  | .next s => some (view s)
  | .fault _ => none
  | .refused _ => none

/-- A view of the state after the instruction. -/
def ran {α : Type} (i : Instr) (s : State) (view : State → α) : Option α := seen view (exec i s)

/-- What a bus access gave. -/
def got {α : Type} : Res α → Option α
  | .ok a _ => some a
  | .fault _ _ => none

/-- A view of the state after a bus access. -/
def left {α β : Type} (view : State → β) : Res α → Option β
  | .ok _ s => some (view s)
  | .fault _ _ => none

/-- The processor with the status byte `p`. -/
def withP (p : Byte) (c : Cpu) : Cpu := { c with flags := Flags.unpack p }

/-- The byte of RAM at an index. -/
def ramByte (i : Nat) (s : State) : Byte := Sparse.read s.ram i

/-! ### Well-formedness -/

/-- Check 1 refuses an opcode value that is not the label's: 0x07 is SLO's, not KIL's (46_undocumented.md R482). -/
theorem test_wf_opcode_listed :
    (Instr.kil 0x07 .implied).wf = false ∧ opcodeListed [(.implied, [0x02])] 0x07 = false := by decide

/-- Check 2 refuses a mode that R482 does not give the value: 0x07 is SLO zero-page, not absolute. -/
theorem test_wf_mode_listed :
    (Instr.slo 0x07 (.absolute 0x1234)).wf = false ∧ (Instr.slo 0x07 (.zeroPage 0x12)).wf = true := by decide

/-- Check 3 refuses an undocumented immediate operand that carries its byte (log 10). -/
theorem test_wf_operand_carried :
    (Instr.anc 0x0B (.immediate 0x12)).wf = false ∧ (Instr.anc 0x0B .unreadImmediate).wf = true := by decide

/-! ### Decoding: words written out from the Encodings lines, at least one per family -/

/-- 41: LDA imm A9, LDX zpy B6, LDY absx BC, STA indx 81, STX zpy 96, STY abs 8C, TAX AA, TXS 9A. -/
theorem test_decode_loads_stores_transfers :
    decode [0xA9, 0x42] = .ok (.lda (.immediate 0x42)) ∧ decode [0xB6, 0xF0] = .ok (.ldx (.zeroPageY 0xF0)) ∧
    decode [0xBC, 0x34, 0x12] = .ok (.ldy (.absoluteX 0x1234)) ∧ decode [0x81, 0x20] = .ok (.sta (.indexedIndirect 0x20)) ∧
    decode [0x96, 0xFF] = .ok (.stx (.zeroPageY 0xFF)) ∧ decode [0x8C, 0xCD, 0xAB] = .ok (.sty (.absolute 0xABCD)) ∧
    decode [0xAA] = .ok .tax ∧ decode [0xA8] = .ok .tay ∧ decode [0x8A] = .ok .txa ∧ decode [0x98] = .ok .tya ∧
    decode [0xBA] = .ok .tsx ∧ decode [0x9A] = .ok .txs := by decide

/-- 42: ADC absx 7D, SBC imm E9, AND zp 25, ORA indy 11, EOR absy 59, BIT abs 2C, CMP indy D1, CPX imm E0, CPY zp C4. -/
theorem test_decode_arithmetic :
    decode [0x7D, 0xFF, 0x02] = .ok (.adc (.absoluteX 0x02FF)) ∧ decode [0xE9, 0x01] = .ok (.sbc (.immediate 0x01)) ∧
    decode [0x25, 0x10] = .ok (.and (.zeroPage 0x10)) ∧ decode [0x11, 0x20] = .ok (.ora (.indirectIndexed 0x20)) ∧
    decode [0x59, 0x80, 0xFF] = .ok (.eor (.absoluteY 0xFF80)) ∧ decode [0x2C, 0x02, 0x20] = .ok (.bit (.absolute 0x2002)) ∧
    decode [0xD1, 0x20] = .ok (.cmp (.indirectIndexed 0x20)) ∧ decode [0xE0, 0x20] = .ok (.cpx (.immediate 0x20)) ∧
    decode [0xC4, 0x10] = .ok (.cpy (.zeroPage 0x10)) := by decide

/-- 43: INC absx FE, DEC zp C6, INX E8, INY C8, DEX CA, DEY 88, ASL acc 0A, LSR zp 46, ROL absx 3E, ROR acc 6A. -/
theorem test_decode_incdec_shift :
    decode [0xFE, 0xFF, 0x02] = .ok (.inc (.absoluteX 0x02FF)) ∧ decode [0xC6, 0x10] = .ok (.dec (.zeroPage 0x10)) ∧
    decode [0xE8] = .ok .inx ∧ decode [0xC8] = .ok .iny ∧ decode [0xCA] = .ok .dex ∧ decode [0x88] = .ok .dey ∧
    decode [0x0A] = .ok (.asl .accumulator) ∧ decode [0x46, 0x10] = .ok (.lsr (.zeroPage 0x10)) ∧
    decode [0x3E, 0x00, 0x03] = .ok (.rol (.absoluteX 0x0300)) ∧ decode [0x6A] = .ok (.ror .accumulator) := by decide

/-- 44: the eight branches, JMP abs 4C and ind 6C, JSR 20, RTS 60. -/
theorem test_decode_control :
    decode [0x90, 0x02] = .ok (.bcc 0x02) ∧ decode [0xB0, 0xF0] = .ok (.bcs 0xF0) ∧ decode [0xF0, 0xFC] = .ok (.beq 0xFC) ∧
    decode [0x30, 0x80] = .ok (.bmi 0x80) ∧ decode [0xD0, 0x10] = .ok (.bne 0x10) ∧ decode [0x10, 0x7F] = .ok (.bpl 0x7F) ∧
    decode [0x50, 0xFE] = .ok (.bvc 0xFE) ∧ decode [0x70, 0x00] = .ok (.bvs 0x00) ∧
    decode [0x4C, 0x00, 0xC0] = .ok (.jmp (.absolute 0xC000)) ∧ decode [0x6C, 0xFF, 0x02] = .ok (.jmp (.indirect 0x02FF)) ∧
    decode [0x20, 0x20, 0x02] = .ok (.jsr 0x0220) ∧ decode [0x60] = .ok .rts := by decide

/-- 45: PHA 48, PHP 08, PLA 68, PLP 28, the seven flag instructions, BRK 00 with any padding byte, RTI 40, NOP EA. -/
theorem test_decode_stack_flags_system :
    decode [0x48] = .ok .pha ∧ decode [0x08] = .ok .php ∧ decode [0x68] = .ok .pla ∧ decode [0x28] = .ok .plp ∧
    decode [0x18] = .ok .clc ∧ decode [0xD8] = .ok .cld ∧ decode [0x58] = .ok .cli ∧ decode [0xB8] = .ok .clv ∧
    decode [0x38] = .ok .sec ∧ decode [0xF8] = .ok .sed ∧ decode [0x78] = .ok .sei ∧ decode [0x00, 0xEA] = .ok .brk ∧
    decode [0x40] = .ok .rti ∧ decode [0xEA] = .ok .nop := by decide

/-- 46: one value of each label of R482; an undocumented immediate byte is not read. -/
theorem test_decode_undocumented :
    decode [0x02] = .ok (.kil 0x02 .implied) ∧ decode [0x04, 0x02] = .ok (.nopUndoc 0x04 (.zeroPage 0x02)) ∧
    decode [0x1B, 1, 2] = .ok (.slo 0x1B (.absoluteY 0x0201)) ∧ decode [0x23, 1] = .ok (.rla 0x23 (.indexedIndirect 1)) ∧
    decode [0x5F, 1, 2] = .ok (.sre 0x5F (.absoluteX 0x0201)) ∧ decode [0x73, 1] = .ok (.rra 0x73 (.indirectIndexed 1)) ∧
    decode [0xD7, 1] = .ok (.dcp 0xD7 (.zeroPageX 1)) ∧ decode [0xEF, 1, 2] = .ok (.isc 0xEF (.absolute 0x0201)) ∧
    decode [0x97, 1] = .ok (.sax 0x97 (.zeroPageY 1)) ∧ decode [0xB7, 1] = .ok (.lax 0xB7 (.zeroPageY 1)) ∧
    decode [0x2B] = .ok (.anc 0x2B .unreadImmediate) ∧ decode [0x4B] = .ok (.alr 0x4B .unreadImmediate) ∧
    decode [0x6B] = .ok (.arr 0x6B .unreadImmediate) ∧ decode [0x8B] = .ok (.xaa 0x8B .unreadImmediate) ∧
    decode [0xCB] = .ok (.axs 0xCB .unreadImmediate) ∧ decode [0xEB] = .ok (.sbcUndoc 0xEB .unreadImmediate) ∧
    decode [0x93, 1] = .ok (.ahx 0x93 (.indirectIndexed 1)) ∧ decode [0x9C, 1, 2] = .ok (.shy 0x9C (.absoluteX 0x0201)) ∧
    decode [0x9E, 1, 2] = .ok (.shx 0x9E (.absoluteY 0x0201)) ∧ decode [0x9B, 1, 2] = .ok (.tas 0x9B (.absoluteY 0x0201)) ∧
    decode [0xBB, 1, 2] = .ok (.las 0xBB (.absoluteY 0x0201)) := by decide

/-- The table's numbering: the first byte is bits 7..0, the operand word lies above it, low byte first. -/
theorem test_decode_table_word :
    decodeTableWord 24 0x02FF6C = some (.jmp (.indirect 0x02FF)) ∧ decodeTableWord 8 0xA9 = some (.lda (.immediate 0)) ∧
    decodeTableWord 16 0x42A9 = some (.lda (.immediate 0x42)) := by decide

/-! ### Addressing (V-40) -/

/-- What V-40 lists: the byte an addressing mode reads, and the cycles. -/
def ldaSees (o : ReadOperand) (s : State) : Option (Byte × Nat) := ran (.lda o) s fun t => (t.cpu.a, t.cpu.cycles - 12)

/-- V-40-1 and V-40-2 (a page crossing costs 1), V-40-3 (wraps to page zero), V-40-10 and V-40-13 (RAM mirror). -/
theorem test_v40_indexed :
    ldaSees (.absoluteX 0x02FF) (machine [(0x02FF, 0x11)] id) = some (0x11, 4) ∧
    ldaSees (.absoluteX 0x02FF) (machine [(0x0300, 0x22)] fun c => { c with x := 1 }) = some (0x22, 5) ∧
    ldaSees (.absoluteY 0xFF80) (machine [(0x0010, 0x33)] fun c => { c with y := 0x90 }) = some (0x33, 5) ∧
    ldaSees (.zeroPageX 0xF0) (machine [(0x0010, 0x44)] fun c => { c with x := 0x20 }) = some (0x44, 4) ∧
    ldaSees (.absolute 0x0800) (machine [(0x0000, 0x5A)] id) = some (0x5A, 4) := by decide

/-- V-40-6 to V-40-9: pointers wrap inside page zero, and only indirect-indexed pays for a crossed page. -/
theorem test_v40_indirect :
    ldaSees (.indirectIndexed 0x10) (machine [(0x10, 0xFF), (0x11, 0x02), (0x0300, 0x11)] fun c => { c with y := 1 }) =
      some (0x11, 6) ∧
    ldaSees (.indirectIndexed 0xFF) (machine [(0xFF, 0x00), (0x00, 0x03), (0x100, 0x04), (0x0300, 0x22)] id) = some (0x22, 5) ∧
    ldaSees (.indexedIndirect 0xFE) (machine [(0xFF, 0x20), (0x00, 0x03), (0x0320, 0x33)] fun c => { c with x := 1 }) =
      some (0x33, 6) ∧
    ldaSees (.indexedIndirect 0xFF) (machine [(0x01, 0x00), (0x02, 0x04), (0x0400, 0x44)] fun c => { c with x := 2 }) =
      some (0x44, 6) := by decide

/-- V-40-4, V-40-5: a store and a read-modify-write pay no page penalty; V-41-11: zero-page-Y wraps. -/
theorem test_v40_stores :
    ran (.sta (.absoluteX 0x02FF)) (machine [] fun c => { c with x := 1, a := 7 }) (fun t => (ramByte 0x300 t, t.cpu.cycles)) =
      some (7, 17) ∧
    ran (.inc (.absoluteX 0x02FF)) (machine [] fun c => { c with x := 1 }) (fun t => (ramByte 0x300 t, t.cpu.cycles)) =
      some (1, 19) ∧
    ran (.stx (.zeroPageY 0xFF)) (machine [] fun c => { c with x := 0x33, y := 2 }) (ramByte 1) = some 0x33 := by decide

/-! ### Loads, stores, transfers (V-41) -/

/-- S9, V-41-1 to V-41-4: the loads and their flags. -/
theorem test_v41_loads :
    ran (.lda (.immediate 0x00)) (machine [] (withP 0xA4)) (fun t => (t.cpu.a, t.cpu.flags.pack)) = some (0x00, 0x26) ∧
    ran (.lda (.immediate 0x42)) (machine [] id) (fun t => (t.cpu.a, t.cpu.pc)) = some (0x42, 0x0202) ∧
    ran (.ldx (.immediate 0xFF)) (machine [] id) (fun t => (t.cpu.x, t.cpu.flags.pack)) = some (0xFF, 0xA4) ∧
    ran (.ldy (.immediate 0x7F)) (machine [] (withP 0xA6)) (fun t => (t.cpu.y, t.cpu.flags.pack)) = some (0x7F, 0x24) := by decide

/-- V-41-5 (a store sets no flag), and STY. -/
theorem test_v41_stores :
    ran (.sta (.zeroPage 0x10)) (machine [] fun c => { c with a := 0x80 })
      (fun t => (ramByte 0x10 t, t.cpu.flags.pack, t.cpu.cycles)) = some (0x80, 0x24, 15) ∧
    ran (.sty (.absolute 0x0805)) (machine [] fun c => { c with y := 0x11 }) (ramByte 5) = some 0x11 := by decide

/-- V-41-6 to V-41-10: the transfers; TXS sets no flag. -/
theorem test_v41_transfers :
    ran .tax (machine [] fun c => { c with x := 0x55 }) (fun t => (t.cpu.x, t.cpu.flags.pack)) = some (0x00, 0x26) ∧
    ran .txa (machine [] fun c => { c with x := 0x90 }) (fun t => (t.cpu.a, t.cpu.flags.n)) = some (0x90, true) ∧
    ran .tsx (machine [] fun c => { c with sp := 0x80 }) (fun t => (t.cpu.x, t.cpu.flags.pack)) = some (0x80, 0xA4) ∧
    ran .txs (machine [] id) (fun t => (t.cpu.sp, t.cpu.flags.pack)) = some (0x00, 0x24) ∧
    ran .tya (machine [] fun c => { c with y := 1 }) (fun t => (t.cpu.a, t.cpu.flags.z)) = some (0x01, false) ∧
    ran .tay (machine [] id) (fun t => (t.cpu.y, t.cpu.flags.z)) = some (0x00, true) := by decide

/-! ### Arithmetic, logic, compare (V-42) -/

/-- A row of V-42: A, M, carry in; result, C, V, Z, N. -/
abbrev AluRow := Byte × Byte × Bool × Byte × Bool × Bool × Bool × Bool

/-- The row holds of the immediate form of an instruction. -/
def aluRow (i : Byte → Instr) : AluRow → Bool
  | (a, m, cin, r, c, v, z, n) =>
    ran (i m) (machine [] fun k => { k with a := a, flags := { k.flags with c := cin } })
      (fun t => (t.cpu.a, t.cpu.flags.c, t.cpu.flags.v, t.cpu.flags.z, t.cpu.flags.n)) == some (r, c, v, z, n)

/-- V-42-1 to V-42-11. -/
theorem test_v42_adc :
    ([(0x00, 0x00, false, 0x00, false, false, true, false), (0x01, 0x01, false, 0x02, false, false, false, false),
      (0x7F, 0x01, false, 0x80, false, true, false, true), (0x80, 0xFF, false, 0x7F, true, true, false, false),
      (0xFF, 0xFF, true, 0xFF, true, false, false, true), (0x80, 0x80, false, 0x00, true, true, true, false),
      (0xFF, 0x00, true, 0x00, true, false, true, false), (0x50, 0x90, false, 0xE0, false, false, false, true),
      (0xD0, 0x90, false, 0x60, true, true, false, false), (0x50, 0x50, true, 0xA1, false, true, false, true),
      (0x3F, 0x40, true, 0x80, false, true, false, true)] : List AluRow).all (aluRow fun m => .adc (.immediate m)) = true := by
  decide

/-- V-42-12 to V-42-21. -/
theorem test_v42_sbc :
    ([(0x00, 0x00, true, 0x00, true, false, true, false), (0x00, 0x01, true, 0xFF, false, false, false, true),
      (0x80, 0x01, true, 0x7F, true, true, false, false), (0x7F, 0xFF, true, 0x80, false, true, false, true),
      (0x50, 0xF0, true, 0x60, false, false, false, false), (0xD0, 0x70, true, 0x60, true, true, false, false),
      (0x00, 0x00, false, 0xFF, false, false, false, true), (0xFF, 0xFF, false, 0xFF, false, false, false, true),
      (0x50, 0xB0, true, 0xA0, false, true, false, true), (0x05, 0x03, false, 0x01, true, false, false, false)] :
      List AluRow).all (aluRow fun m => .sbc (.immediate m)) = true := by
  decide

/-- V-42-22: decimal mode does not change the sum. -/
theorem test_v42_adc_decimal :
    ran (.adc (.immediate 0x01)) (machine [] fun c => { withP 0x2C c with a := 0x09 }) (fun t => t.cpu.a) = some 0x0A := by decide

/-- V-42-23 to V-42-26: A, Z, N. -/
theorem test_v42_logic :
    ran (.and (.immediate 0x0F)) (machine [] fun c => { c with a := 0xF0 }) (fun t => (t.cpu.a, t.cpu.flags.pack)) =
      some (0x00, 0x26) ∧
    ran (.ora (.immediate 0x01)) (machine [] fun c => { c with a := 0x80 }) (fun t => (t.cpu.a, t.cpu.flags.pack)) =
      some (0x81, 0xA4) ∧
    ran (.eor (.immediate 0xFF)) (machine [] fun c => { c with a := 0xFF }) (fun t => (t.cpu.a, t.cpu.flags.pack)) =
      some (0x00, 0x26) ∧
    ran (.eor (.immediate 0xFF)) (machine [] fun c => { c with a := 0x0F }) (fun t => (t.cpu.a, t.cpu.flags.pack)) =
      some (0xF0, 0xA4) := by decide

/-- V-42-27, V-42-28: Z, V, N from memory; A and C unchanged. -/
theorem test_v42_bit :
    ran (.bit (.zeroPage 0x10)) (machine [(0x10, 0xC0)] fun c => { withP 0x25 c with a := 0x01 })
      (fun t => (t.cpu.a, t.cpu.flags.pack)) = some (0x01, 0xE7) ∧
    ran (.bit (.zeroPage 0x10)) (machine [(0x10, 0x3F)] fun c => { withP 0xE6 c with a := 0xFF })
      (fun t => (t.cpu.a, t.cpu.flags.pack)) = some (0xFF, 0x24) := by decide

/-- V-42-29 to V-42-36, for CMP, CPX and CPY: register, M; C, Z, N. -/
theorem test_v42_compare :
    ([(0x00, 0x00, true, true, false), (0x01, 0x00, true, false, false), (0x00, 0x01, false, false, true),
      (0x80, 0x7F, true, false, false), (0x7F, 0x80, false, false, true), (0xFF, 0x00, true, false, true),
      (0x10, 0x20, false, false, true), (0x20, 0x20, true, true, false)] : List (Byte × Byte × Bool × Bool × Bool)).all
      (fun (r, m, czn) =>
        let s := machine [] fun k => { k with a := r, x := r, y := r }
        let view := fun t : State => (t.cpu.flags.c, t.cpu.flags.z, t.cpu.flags.n)
        ran (.cmp (.immediate m)) s view == some czn && ran (.cpx (.immediate m)) s view == some czn &&
          ran (.cpy (.immediate m)) s view == some czn) = true := by decide

/-! ### Increment, decrement, shift, rotate (V-43) -/

/-- V-43-1 to V-43-4: the byte, Z and N. -/
theorem test_v43_inc_dec :
    ([(true, 0xFF, 0x00, true, false), (true, 0x7F, 0x80, false, true), (false, 0x00, 0xFF, false, true),
      (false, 0x01, 0x00, true, false)] : List (Bool × Byte × Byte × Bool × Bool)).all
      (fun (up, m, r, z, n) =>
        ran (if up then .inc (.zeroPage 0x10) else .dec (.zeroPage 0x10)) (machine [(0x10, m)] id)
          (fun t => (ramByte 0x10 t, t.cpu.flags.z, t.cpu.flags.n, t.cpu.cycles)) == some (r, z, n, 17)) = true := by decide

/-- V-43-5 to V-43-7. -/
theorem test_v43_index :
    ran .inx (machine [] fun c => { c with x := 0xFF }) (fun t => (t.cpu.x, t.cpu.flags.z)) = some (0x00, true) ∧
    ran .dey (machine [] id) (fun t => (t.cpu.y, t.cpu.flags.n)) = some (0xFF, true) ∧
    ran .iny (machine [] fun c => { c with y := 0x7F }) (fun t => (t.cpu.y, t.cpu.flags.n)) = some (0x80, true) ∧
    ran .dex (machine [] fun c => { c with x := 0x80 }) (fun t => (t.cpu.x, t.cpu.flags.n)) = some (0x7F, false) := by decide

/-- V-43-8 to V-43-14 on the accumulator: value, carry in; result and carry out of ASL, LSR, ROL, ROR. -/
theorem test_v43_shift_accumulator :
    ([(0x80, false, [(0x00, true), (0x40, false), (0x00, true), (0x40, false)]),
      (0x01, false, [(0x02, false), (0x00, true), (0x02, false), (0x00, true)]),
      (0x01, true, [(0x02, false), (0x00, true), (0x03, false), (0x80, true)]),
      (0x80, true, [(0x00, true), (0x40, false), (0x01, true), (0xC0, false)]),
      (0x00, true, [(0x00, false), (0x00, false), (0x01, false), (0x80, false)]),
      (0xFF, false, [(0xFE, true), (0x7F, true), (0xFE, true), (0x7F, true)]),
      (0x55, true, [(0xAA, false), (0x2A, true), (0xAB, false), (0xAA, true)])] : List (Byte × Bool × List (Byte × Bool))).all
      (fun (m, c, want) =>
        [Instr.asl .accumulator, .lsr .accumulator, .rol .accumulator, .ror .accumulator].map (fun i =>
          ran i (machine [] fun k => { k with a := m, flags := { k.flags with c := c } }) fun t => (t.cpu.a, t.cpu.flags.c))
          == want.map some) = true := by decide

/-- V-43-15: the memory forms, their cycles, and N of LSR and ROR. -/
theorem test_v43_shift_memory :
    ran (.lsr (.zeroPage 0x10)) (machine [(0x10, 0xFF)] id)
      (fun t => (ramByte 0x10 t, t.cpu.flags.n, t.cpu.cycles)) = some (0x7F, false, 17) ∧
    ran (.ror (.absoluteX 0x02FF)) (machine [(0x0300, 0x00)] fun c => { withP 0x25 c with x := 1 })
      (fun t => (ramByte 0x300 t, t.cpu.flags.n, t.cpu.cycles)) = some (0x80, true, 19) ∧
    ran (.asl (.zeroPage 0x10)) (machine [(0x10, 0x80)] id) (fun t => (ramByte 0x10 t, t.cpu.flags.pack)) = some (0x00, 0x27) ∧
    ran (.rol (.absoluteX 0x0300)) (machine [(0x0300, 0x80)] (withP 0x25))
      (fun t => (ramByte 0x300 t, t.cpu.cycles)) = some (0x01, 19) := by decide

/-! ### Control flow (V-44) -/

/-- V-44-1 to V-44-9: program counter and cycles. -/
theorem test_v44_branches :
    let go := fun (i : Instr) (pc : Word) (p : Byte) =>
      ran i (machine [] fun c => { withP p c with pc := pc }) fun t => (t.cpu.pc, t.cpu.cycles - 12)
    go (.bcc 0x02) 0x0210 0x25 = some (0x0212, 2) ∧ go (.bcc 0x02) 0x0210 0x24 = some (0x0214, 3) ∧
    go (.bne 0x10) 0x02F0 0x24 = some (0x0302, 4) ∧ go (.beq 0xFC) 0x0300 0x26 = some (0x02FE, 4) ∧
    go (.bmi 0x80) 0x0280 0xA4 = some (0x0202, 3) ∧ go (.bpl 0x7F) 0x0200 0x24 = some (0x0281, 3) ∧
    go (.bvc 0xFE) 0x0200 0x24 = some (0x0200, 3) ∧ go (.bvs 0x00) 0x0200 0x64 = some (0x0202, 3) ∧
    go (.bcs 0xF0) 0x0200 0x25 = some (0x01F2, 4) := by decide

/-- V-44-10 to V-44-12, S13: the indirect jump takes its high byte from the same page. -/
theorem test_v44_jumps :
    let view := fun t : State => (t.cpu.pc, t.cpu.cycles - 12)
    ran (.jmp (.absolute 0xC000)) (machine [] id) view = some (0xC000, 3) ∧
    ran (.jmp (.indirect 0x02FF)) (machine [(0x02FF, 0x34), (0x0200, 0x12), (0x0300, 0x56)] id) view = some (0x1234, 5) ∧
    ran (.jmp (.indirect 0x0010)) (machine [(0x10, 0x00), (0x11, 0xC0)] id) view = some (0xC000, 5) := by decide

/-- V-44-13 and V-44-16 (the stack wraps in page 1): JSR. -/
theorem test_v44_jsr :
    ran (.jsr 0x0220) (machine [] fun c => { c with pc := 0x020C })
      (fun t => (ramByte 0x1FD t, ramByte 0x1FC t, t.cpu.sp, t.cpu.pc)) = some (0x02, 0x0E, 0xFB, 0x0220) ∧
    ran (.jsr 0x0220) (machine [] fun c => { c with pc := 0x020C, sp := 0x00 })
      (fun t => (ramByte 0x100 t, ramByte 0x1FF t, t.cpu.sp)) = some (0x02, 0x0E, 0xFE) := by decide

/-- V-44-14 and V-44-15 (the sum wraps): RTS. -/
theorem test_v44_rts :
    ran .rts (machine [(0x1FC, 0x0E), (0x1FD, 0x02)] fun c => { c with sp := 0xFB })
      (fun t => (t.cpu.pc, t.cpu.sp, t.cpu.cycles)) = some (0x020F, 0xFD, 18) ∧
    ran .rts (machine [(0x1FC, 0xFF), (0x1FD, 0xFF)] fun c => { c with sp := 0xFB }) (fun t => t.cpu.pc) = some 0x0000 := by decide

/-! ### Stack, flags, system (V-45) -/

/-- V-45-1 to V-45-4: PHP and PLP. -/
theorem test_v45_status :
    ran .php (machine [] id) (fun t => (ramByte 0x1FD t, t.cpu.sp, t.cpu.flags.pack)) = some (0x34, 0xFC, 0x24) ∧
    ran .php (machine [] (withP 0xE7)) (ramByte 0x1FD) = some 0xF7 ∧
    ran .plp (machine [(0x1FE, 0xFF)] id) (fun t => (t.cpu.flags.pack, t.cpu.cycles)) = some (0xEF, 16) ∧
    ran .plp (machine [] id) (fun t => t.cpu.flags.pack) = some 0x20 := by decide

/-- V-45-5 to V-45-7: PHA and PLA. -/
theorem test_v45_accumulator :
    ran .pha (machine [] fun c => { c with a := 0x42, sp := 0x00 }) (fun t => (ramByte 0x100 t, t.cpu.sp)) = some (0x42, 0xFF) ∧
    ran .pla (machine [(0x100, 0x80)] fun c => { c with sp := 0xFF })
      (fun t => (t.cpu.a, t.cpu.flags.n, t.cpu.sp, t.cpu.cycles)) = some (0x80, true, 0x00, 16) ∧
    ran .pla (machine [] fun c => { c with a := 1 }) (fun t => (t.cpu.a, t.cpu.flags.z)) = some (0x00, true) := by decide

/-- V-45-8 to V-45-10: the flag instructions and NOP. -/
theorem test_v45_flags :
    let go := fun (i : Instr) (p : Byte) => ran i (machine [] (withP p)) fun t => (t.cpu.flags.pack, t.cpu.pc, t.cpu.cycles - 12)
    go .clc 0x25 = some (0x24, 0x0201, 2) ∧ go .sec 0x24 = some (0x25, 0x0201, 2) ∧ go .cli 0x24 = some (0x20, 0x0201, 2) ∧
    go .sei 0x24 = some (0x24, 0x0201, 2) ∧ go .clv 0x64 = some (0x24, 0x0201, 2) ∧ go .cld 0x2C = some (0x24, 0x0201, 2) ∧
    go .sed 0x24 = some (0x2C, 0x0201, 2) ∧ go .nop 0xE7 = some (0xE7, 0x0201, 2) := by decide

/-- S10: BRK at 0x0200. -/
theorem test_s10_brk :
    ran .brk (machine [(0xFFFE, 0x00), (0xFFFF, 0xC0)] id)
      (fun t => ([ramByte 0x1FD t, ramByte 0x1FC t, ramByte 0x1FB t, t.cpu.sp, t.cpu.flags.pack], t.cpu.pc, t.cpu.cycles)) =
      some ([0x02, 0x02, 0x34, 0xFA, 0x24], 0xC000, 19) := by decide

/-- V-45-12: RTI after V-45-11. -/
theorem test_v45_rti :
    ran .rti (machine [(0x1FD, 0xC0), (0x1FC, 0x05), (0x1FB, 0xB0)] fun c => { c with sp := 0xFA })
      (fun t => (t.cpu.flags.pack, t.cpu.pc, t.cpu.sp, t.cpu.cycles)) = some (0xA0, 0xC005, 0xFD, 18) := by decide

/-! ### Undocumented opcodes (V-46) -/

/-- V-46-1: refused, with the address and the opcode. -/
theorem test_v46_refused :
    exec (.kil 0x02 .implied) (State.withCfg (fun _ => Config.spec) (machine [] id)) =
      .refused (.undocumentedOpcode 0x0200 0x02) := rfl

/-- V-46-2: an interrupt pending in the same step is not kept; there is no next state at all. -/
theorem test_v46_refused_with_interrupt :
    step (State.withCfg (fun _ => Config.spec)
      (machine [(0x0200, 0xFF), (0xFFFF, 0x02)] fun c => { withP 0x20 c with latch := .irq })) =
      .refused (.undocumentedOpcode 0x0200 0xFF) := rfl

/-- V-46-4: as a no-op only the program counter and the counter change. -/
theorem test_v46_noop :
    ran (.nopUndoc 0x04 (.zeroPage 0x02)) (machine [(0x02, 0x77)] id)
      (fun t => (t.ram, t.cpu.a, t.cpu.sp, t.cpu.flags.pack)) = some ([(0x02, 0x77)], 0, 0xFD, 0x24) := rfl

/-! ### Interrupts and faults (V-60) -/

/-- V-60-1: an NMI entry and the handler's first instruction in one step. -/
theorem test_v60_nmi_entry :
    seen (fun t => ([ramByte 0x1FD t, ramByte 0x1FC t, ramByte 0x1FB t, t.cpu.sp, t.cpu.flags.pack, t.cpu.y], t.cpu.pc,
        t.cpu.cycles, t.cpu.latch))
      (step (machine [(0xFFFB, 0x02), (0x0200, 0xC8)] fun c => { c with pc := 0xC006, latch := .nmi })) =
      some ([0xC0, 0x06, 0x34, 0xFA, 0x24, 0x01], 0x0201, 21, .none) := by decide +kernel

/-- V-60-2, V-60-4: what the requests leave in the latch. -/
theorem test_v60_requests :
    (requestIrq (machine [] id)).cpu.latch = .none ∧ (requestIrq (machine [] (withP 0x20))).cpu.latch = .irq ∧
    (requestNmi (machine [] fun c => { c with latch := .irq })).cpu.latch = .nmi ∧
    (requestIrq (machine [] fun c => { withP 0x20 c with latch := .nmi })).cpu.latch = .nmi := by decide

/-- V-60-3: with masking at the service, I = 1 leaves the IRQ latched, and I = 0 takes it with B = 1 pushed. -/
theorem test_v60_irq_masked_at_service :
    let s := State.withCfg (fun c => { c with irqMaskAt := .service }) (machine [(0xFFFF, 0x02)] fun c => { c with latch := .irq })
    (serviceInterrupt s).cpu.latch = .irq ∧ (serviceInterrupt s).cpu.pc = 0x0200 ∧
    ramByte 0x1FB (serviceInterrupt { s with cpu := withP 0x20 s.cpu }) = 0x30 := by decide

/-- The record of a step's or an instruction's fault, and the state it leaves. -/
def faulted {α : Type} (view : FaultRecord → State → α) : Host.Outcome State Fault Refusal → Option α
  | .fault (.mapperUnmapped r s) => some (view r s)
  | .next _ => none
  | .refused _ => none

/-- The machine whose expansion range goes to the mapper. -/
def routed (s : State) : State := State.withCfg (fun c => { c with expansionRouting := .mapper }) s

/-- V-60-5, V-60-6: F1 of a read and of a write; the program counter and the counter have advanced. -/
theorem test_v60_faults :
    faulted (fun r t => (r, t.halted, t.cpu.pc, t.cpu.cycles))
      (step (routed (machine [(0x200, 0xAD), (0x201, 0x00), (0x202, 0x50)] id))) =
      some (⟨.mapperUnmapped, 0x5000, some 0xAD, .mapper, .read⟩, true, 0x0203, 16) ∧
    faulted (fun r t => (r, t.halted, t.cpu.pc, t.cpu.cycles)) (exec (.sta (.absolute 0x5000)) (routed (machine [] id))) =
      some (⟨.mapperUnmapped, 0x5000, some 0x8D, .mapper, .write⟩, true, 0x0203, 16) := by decide

/-- V-60-5 with `EXPANSION_ROUTING = zero`. -/
theorem test_v60_expansion_reads_zero :
    ran (.lda (.absolute 0x5000)) (machine [] fun c => { c with a := 1 }) (fun t => (t.cpu.a, t.cpu.flags.z, t.cpu.cycles)) =
      some (0, true, 16) := by decide

/-! ### Bus, DMA, controllers, load (V-20) -/

/-- V-20-1, V-20-5: the RAM mirrors and the unmapped I/O addresses. -/
theorem test_v20_bus :
    left (ramByte 0x7FF) (memWrite 0x1FFF 0x77 (machine [] id)) = some 0x77 ∧
    ([0x07FF, 0x0FFF, 0x17FF, 0x1FFF] : List Word).all (fun a => got (memRead a (machine [(0x7FF, 0x77)] id)) == some 0x77) ∧
    ([0x4000, 0x4015, 0x4018] : List Word).all (fun a => got (memRead a (machine [] id)) == some 0 &&
      left id (memWrite a 0x55 (machine [] id)) == some (machine [] id)) := by decide

/-- V-20-2: a 16-bit read is little-endian, and `MemReadPage` stays in the page. -/
theorem test_v20_words :
    got (memRead16 0xFFFC (machine [(0xFFFC, 0x34), (0xFFFD, 0x12)] id)) = some 0x1234 ∧
    got (memReadPage 0x10FF (machine [(0x10FF, 0x34), (0x1000, 0x12), (0x1100, 0x56)] id)) = some 0x1234 := by decide

/-- V-20-3, V-20-4: the mirror table and the palette aliases. -/
theorem test_v20_picture_indexes :
    [Mirroring.horizontal, .vertical, .single0, .single1, .four].map
      (fun m => [0x2000, 0x2400, 0x2800, 0x2C00].map (ntIndex m)) =
      [[0, 0, 0x400, 0x400], [0, 0x400, 0, 0x400], [0, 0, 0, 0], [0x400, 0x400, 0x400, 0x400], [0, 0x400, 0, 0x400]] ∧
    [0x3F10, 0x3F14, 0x3F11, 0x3F24, 0x3F30].map palIndex = [0, 4, 0x11, 4, 0] := by decide

/-- V-20-6: the stall of 513 or 514, and the wrap of `oam_addr`. -/
theorem test_v20_dma :
    left (fun t => (t.cpu.stall, t.ppu.oamAddr, Sparse.read t.ppu.oam 0x10, Sparse.read t.ppu.oam 0x0F))
      (oamDma 0x07 (State.withPpu (fun p => { p with oamAddr := 0x10 })
        (machine [(0x0700, 0xAB), (0x07FF, 0xCD)] fun c => { c with cycles := 24 }))) = some (513, 0x10, 0xAB, 0xCD) ∧
    dmaStall Config.spec 25 = 514 := by decide +kernel

/-- V-20-7: a held strobe keeps the index at 0; released, it advances past the eighth bit; port 2 is its own. -/
theorem test_v20_controllers :
    let s := controllerWrite .one 0x01 (machine [] id)
    (controllerRead .one (controllerRead .one s).2).2.port1.index = 0 ∧
    (controllerRead .one (controllerWrite .one 0x00 s)).2.port1.index = 1 ∧
    (controllerWrite .two 0x01 { s with port1 := ⟨0, 8, 0⟩, port2 := ⟨0, 3, 0⟩ }).port1.index = 8 ∧
    (controllerWrite .two 0x01 { s with port1 := ⟨0, 8, 0⟩, port2 := ⟨0, 3, 0⟩ }).port2.index = 0 ∧
    (controllerRead .one { s with port1 := ⟨0, 8, 0⟩ }).1 = 0 := ⟨rfl, rfl, rfl, rfl, rfl⟩

/-- V-20-8, S1: lengths after the zero-fill, and the refused selector; the reset vector and the processor after reset. -/
theorem test_v20_load :
    (Rom.ofBytes (List.replicate 0x20 0xEA) 0x4000).len = 0x4000 ∧ zeroFillLength 0x2000 0x4000 = 0x4000 ∧
    zeroFillLength 0x2000 0x2000 = 0x2000 ∧ zeroFillLength 0 0x2000 = 0x2000 ∧
    (State.load Config.spec [] [] 2).toOption = none ∧
    (State.resetWith Config.spec ⟨.fixedChr ⟨0⟩, ⟨0x4000, [(0x3FFD, 0xC0)]⟩, ⟨0x2000, []⟩, [], .vertical⟩).cpu.pc = 0xC000 ∧
    Flags.reset.pack = 0x24 := by decide

/-! ### The picture unit (V-61) -/

/-- The machine with the picture unit at a raster position. -/
def atDot (line dot : Nat) (f : Ppu → Ppu) : State :=
  State.withPpu (fun p => f { p with scanline := line, dot := dot }) (machine [] id)

/-- V-61-1: the second picture step after reset sets vblank. -/
theorem test_v61_reset_position :
    ((ppuStep State.reset).ppu.scanline, (ppuStep State.reset).ppu.dot, (ppuStep State.reset).ppu.vblank) = (241, 0, false) ∧
    ((runPicture 2 State.reset).ppu.dot, (runPicture 2 State.reset).ppu.vblank) = (1, true) := by decide

/-- V-61-2: two status reads. -/
theorem test_v61_status :
    let s := State.withPpu (fun p => { p with vblank := true, lastWrite := 0x10, w := true }) (machine [] id)
    let r := ppuRegRead 2 s
    r.1 = 0x90 ∧ r.2.ppu.vblank = false ∧ r.2.ppu.w = false ∧ (ppuRegRead 2 r.2).1 = 0x10 := by decide

/-- V-61-3, V-61-4: PPUSCROLL twice, then PPUCTRL. -/
theorem test_v61_scroll :
    let s1 := ppuRegWrite 5 0x7D (machine [] id)
    let s2 := ppuRegWrite 5 0x5E s1
    (s1.ppu.t, s1.ppu.fineX, s1.ppu.w) = (0x000F, 5, true) ∧ (s2.ppu.t, s2.ppu.w) = (0x616F, false) ∧
    (ppuRegWrite 0 0x01 s2).ppu.t = 0x656F := by decide

/-- V-61-5: PPUADDR twice. -/
theorem test_v61_address :
    let go := fun (a b : Byte) => (ppuRegWrite 6 b (ppuRegWrite 6 a (machine [] id))).ppu
    ((go 0x3F 0x10).v, (go 0x3F 0x10).w) = (0x3F10, false) ∧ (go 0xFF 0x00).t = 0x3F00 := by decide

/-- V-61-6: the buffered read. -/
theorem test_v61_buffered_read :
    let s := State.withPpu (fun p => { p with v := 0x2000, nt := [(0, 0x55), (1, 0x66)] }) (machine [] id)
    let r1 := ppuRegRead 7 s
    let r2 := ppuRegRead 7 r1.2
    let r3 := ppuRegRead 7 r2.2
    (r1.1, r2.1, r3.1, r3.2.ppu.v) = (0x00, 0x55, 0x66, 0x2003) := by decide

/-- V-61-7, V-61-8: the palette read and the address mask. -/
theorem test_v61_palette_port :
    let pal : Memory := [(0, 0x21)]
    let p := ppuRegRead 7 (State.withPpu
      (fun p => { p with v := 0x3F00, pal := pal, nt := [(0x700, 0x44)], ctrl := { p.ctrl with inc32 := true } }) (machine [] id))
    let q := ppuRegWrite 7 0x15 (State.withPpu (fun p => { p with v := 0x7FFF }) (machine [] id))
    (p.1, p.2.ppu.v, p.2.ppu.readBuffer) = (0x21, 0x3F20, 0x44) ∧
    (q.ppu.v, Sparse.read q.ppu.pal 0x1F) = (0x0000, 0x15) := by decide

/-- V-61-9 to V-61-11: the scroll increments and copies. -/
theorem test_v61_increments :
    [0x0000, 0x6000, 0x7000, 0x73A0, 0x7BA0, 0x73C0, 0x73E0, 0x7FE0].map incrementY =
      [0x1000, 0x7000, 0x0020, 0x0800, 0x0000, 0x03E0, 0x0000, 0x0C00] ∧
    [0x001F, 0x041F, 0x0005].map incrementX = [0x0400, 0x0000, 0x0006] ∧
    copyX 0x7FFF 0x0000 = 0x7BE0 ∧ copyY 0x7BE0 0x0000 = 0x0000 := by decide

/-- V-61-12: nine sprites on a line. -/
theorem test_v61_sprite_cap :
    let oam : Memory := (List.range 64).map fun i => (4 * i, if i < 9 then 10#8 else 0xFF#8)
    let p := (ppuStep (atDot 10 256 fun p => { p with oam := oam, mask := { p.mask with showBg := true } })).ppu
    p.spriteCount = 8 ∧ p.spriteOverflow = true ∧ (p.sprites[7]?).map (·.index) = some 7 := by decide +kernel

/-- V-61-13: the odd-frame skip. -/
theorem test_v61_odd_frame :
    let view := fun (f : Bool) =>
      let p := (ppuStep (atDot 261 339 fun p => { p with f := f, mask := { p.mask with showBg := true } })).ppu
      (p.scanline, p.dot, p.frame, p.f)
    view true = (0, 0, 1, false) ∧ view false = (261, 340, 0, false) := by decide

/-- V-61-14, V-61-15: vblank arms the NMI, and so does enabling it in vblank; the fifteenth step latches it. -/
theorem test_v61_nmi_delay :
    (ppuStep (atDot 241 0 fun p => { p with ctrl := { p.ctrl with nmiOutput := true } })).ppu.nmiDelay = 15 ∧
    (ppuRegWrite 0 0x80 (State.withPpu (fun p => { p with vblank := true }) (machine [] id))).ppu.nmiDelay = 15 ∧
    (ppuStep (atDot 241 15 fun p =>
      { p with ctrl := { p.ctrl with nmiOutput := true }, vblank := true, nmiDelay := 1 })).cpu.latch = .nmi ∧
    (ppuStep (atDot 241 15 fun p => { p with ctrl := { p.ctrl with nmiOutput := true }, nmiDelay := 1 })).cpu.latch = .none := by
  decide

/-- V-61-16: the sprite-zero hit at column 254, and none at 255. -/
theorem test_v61_sprite_zero :
    let hit := fun px => (combinePixel px 0x1#4 (some (SpriteSlot.reset, 0x1#4))).hit
    hit 254 = true ∧ hit 255 = false := by decide

/-! ### Mappers (V-62) -/

/-- V-62-1: `BankOffset` with 8 banks. -/
theorem test_v62_bank_offset :
    [0x09, 0xFF, 0xFE, 0x80].map (fun i => bankOffset i 0x2000 0x10000) = [0x2000, 0xE000, 0xC000, 0] := by decide

/-- V-62-2: FIXED_CHR. -/
theorem test_v62_fixed_chr :
    let c : Cartridge := ⟨.fixedChr ⟨0⟩, ⟨0x8000, [(0, 0x11), (0x4000, 0x22)]⟩, ⟨0x8000, [(0x6000, 0x33)]⟩, [], .horizontal⟩
    c.read 0x8000 = some 0x11 ∧ c.read 0xC000 = some 0x22 ∧ (c.write 0x8000 0x07).bind (·.read 0) = some 0x33 := by decide

/-- A SHIFT_REG cartridge after load, with 128 KiB PRG. -/
def shiftCart : Cartridge :=
  ⟨.shiftReg (ShiftReg.loaded 0x0C 0x20000 0x2000), ⟨0x20000, []⟩, ⟨0x2000, []⟩, [], .horizontal⟩

/-- The SHIFT_REG state of a cartridge. -/
def Cartridge.shiftReg (c : Cartridge) : Option ShiftReg :=
  match c.mapper with
  | .shiftReg st => some st
  | .fixedChr _ => none
  | .scanlineIrq _ => none

/-- Values written in turn to one address. -/
def writes (c : Cartridge) (a : Nat) (vs : List Byte) : Cartridge := vs.foldl (fun c v => c.registerWrite a v) c

/-- S7, V-62-3: five bits load control. V-62-4: a write with bit 7 set. V-62-5: a PRG bank. -/
theorem test_v62_shift_register :
    ((Cartridge.shiftReg (writes shiftCart 0x8000 [0, 1, 1, 0, 1])).map (·.control) = some 0x16 ∧
      (writes shiftCart 0x8000 [0, 1, 1, 0, 1]).mirror = .vertical) ∧
    (Cartridge.shiftReg (writes shiftCart 0xC123 [1, 1, 0x80])).map (fun st => (st.shift, st.control)) = some (0x10, 0x0C) ∧
    (Cartridge.shiftReg (writes shiftCart 0xE000 [1, 1, 0, 0, 0])).map (fun st => (st.prgBank, st.prgOff)) =
      some (3, #v[3 * 0x4000, 7 * 0x4000]) := by decide

/-- A SCANLINE_IRQ machine with 64 KiB PRG, the picture unit rendering at a raster position. -/
def scanMachine (line dot : Nat) (f : ScanlineIrq → ScanlineIrq) : State :=
  { atDot line dot (fun p => { p with mask := { p.mask with showBg := true } }) with
    cart := ⟨.scanlineIrq (f (ScanlineIrq.loaded 0x10000)), ⟨0x10000, []⟩, ⟨0x2000, []⟩, [], .horizontal⟩ }

/-- S8, V-62-6: with L = 3 the fourth clock finds zero; with L = 0 the first does. -/
theorem test_v62_counter :
    let st : ScanlineIrq := { ScanlineIrq.loaded 0x10000 with irqLatch := 3 }
    [1, 2, 3, 4].map (fun k => (ScanlineIrq.clocked^[k] st).irqCounter) = [3, 2, 1, 0] ∧
    (ScanlineIrq.loaded 0x10000).clocked.irqCounter = 0 := by decide

/-- V-62-7: the clock at dot 260 of line 239 and 261, not of 240, and the request it makes; V-62-8: the initial windows. -/
theorem test_v62_scanline_irq :
    let go := fun line =>
      let s := scanMachine line 260 fun st => { st with irqEnable := true }
      (mapperStep { s with cpu := withP 0x20 s.cpu }).cpu.latch
    go 239 = .irq ∧ go 261 = .irq ∧ go 240 = .none ∧
    [0x8000, 0xA000, 0xC000, 0xE000].map (scanMachine 0 0 id).cart.prgAddr = [0, 0x2000, 0xC000, 0xE000] := by decide

/-! ### The statements' hypotheses are met (one theorem per statement that has any, at boundary values) -/

/-- DecodeOfEncodeIsTheInstruction, UndocumentedOpcodesAreNoOps: well-formed instructions of both kinds. -/
theorem test_meets_DecodeOfEncodeIsTheInstruction :
    (Instr.brk).wf = true ∧ (Instr.nopUndoc 0xFC (.absoluteX 0xFFFF)).wf = true ∧
    State.reset.cfg.undocMode = .noop := by decide

/-- DecodedInstructionIsWellFormed. -/
theorem test_meets_DecodedInstructionIsWellFormed : decode [0xFF, 0xFF, 0xFF] = .ok (.isc 0xFF (.absoluteX 0xFFFF)) := by decide

/-- The statements about reading instructions (LoadsTakeTheOperand to BitAndComparesSetFlags): every disjunct, at its bounds. -/
theorem test_meets_readable :
    (machine [] id).readable (.absolute 0x5000) ∧ (routed (machine [] id)).readable (.absolute 0x401F) ∧
    (routed (machine [] id)).readable (.absolute 0x6000) ∧ (routed (machine [] id)).readable (.immediate 0) :=
  ⟨.inl rfl, .inr (.inl (by decide)), .inr (.inr (by decide)), trivial⟩

/-- StoresWriteTheRegister: an ordinary address, and the DMA register with the last page below and the first above the range. -/
theorem test_meets_StoresWriteTheRegister :
    (machine [] id).storable 0x4014 0x50 ∧ (routed (machine [] id)).storable 0x401F 0x50 ∧
    (routed (machine [] id)).storable 0x4014 0x3F ∧ (routed (machine [] id)).storable 0x4014 0x60 :=
  ⟨⟨.inl rfl, fun _ => .inl rfl⟩, ⟨.inr (.inl (by decide)), fun h => absurd h (by decide)⟩,
    ⟨.inr (.inl (by decide)), fun _ => .inr (.inl (by decide))⟩, ⟨.inr (.inl (by decide)), fun _ => .inr (.inr (by decide))⟩⟩

/-- IncAndDecModifyMemory, ShiftsAndRotates, JumpsGoToTheTarget. -/
theorem test_meets_mapped :
    (machine [] id).mapped 0x5FFF ∧ (routed (machine [] id)).mapped 0x401F ∧ (routed (machine [] id)).mapped 0x6000 ∧
    ShiftOperand.zeroPage 0x10 ≠ .accumulator := ⟨.inl rfl, .inr (.inl (by decide)), .inr (.inr (by decide)), by decide⟩

/-- StatusByteAndStack, RtiInvertsExceptionEntry. -/
theorem test_meets_RtiInvertsExceptionEntry :
    Sparse.wf (machine [(0x1FF, 1)] id).ram = true ∧ (machine [(0x1FF, 1)] (withP 0xEF)).cpu.flags.Inv :=
  ⟨by decide, rfl, rfl⟩

/-- UndocumentedOpcodesAreRefused: an interrupt pending, its handler's first opcode undocumented. -/
theorem test_meets_UndocumentedOpcodesAreRefused :
    let s := State.withCfg (fun _ => Config.spec) (machine [(0xFFFB, 0x02), (0x0200, 0xFF)] fun c => { c with latch := .nmi })
    s.halted = false ∧ s.cpu.stall = 0 ∧ s.cfg.undocMode = .refuse ∧ (opRow 0xFF).documented = false ∧
    ∃ s1, memRead (serviceInterrupt s).cpu.pc (serviceInterrupt s) = .ok 0xFF s1 := ⟨rfl, rfl, rfl, by decide, _, rfl⟩

/-- StepRunsTheInstruction: both forms. -/
theorem test_meets_StepRunsTheInstruction :
    let s := machine [(0x0200, 0xA9), (0x0201, 0x42)] id
    s.halted = false ∧ s.cpu.stall = 0 ∧ pendingVector s = none ∧ s.memoryByte 0x0200 = some 0xA9 ∧
    s.memoryByte 0x0201 = some 0x42 ∧ s.memoryByte 0x0202 = some 0 ∧ refusesOpcode s.cfg 0xA9 = false ∧
    decode [0xA9, 0x42, 0] = .ok (.lda (.immediate 0x42)) ∧
    (∃ s1, memRead (serviceInterrupt s).cpu.pc (serviceInterrupt s) = .ok 0xA9 s1) ∧
    ∃ s2, operandBytes 0xA9 s = .ok (0x42, 0) s2 :=
  ⟨rfl, rfl, rfl, by decide, by decide, by decide, by decide, by decide, ⟨_, rfl⟩, _, rfl⟩

/-- StallAndHaltedSteps, InterruptServiceEntersHandler: each case of the latch is a state, for either place of the mask. -/
theorem test_meets_InterruptServiceEntersHandler :
    (machine [] fun c => { c with stall := 1 }).halted = false ∧ 0 < (machine [] fun c => { c with stall := 1 }).cpu.stall ∧
    { machine [] id with halted := true }.halted = true ∧
    (machine [] fun c => { c with latch := .nmi }).cpu.latch = .nmi ∧
    (machine [] fun c => { c with latch := .irq }).cfg.irqMaskAt = .request ∧
    (machine [] fun c => { withP 0x20 c with latch := .irq }).cpu.flags.i = false ∧
    (machine [] fun c => { c with latch := .irq }).cpu.flags.i = true ∧ (machine [] id).cpu.latch = .none := by decide

/-- EveryFaultIsMapperUnmapped: both ends of the range, at the opcode fetch, an operand and an access. -/
theorem test_meets_EveryFaultIsMapperUnmapped :
    (∃ f, step (routed (machine [] fun c => { c with pc := 0x4020 })) = .fault f) ∧
    (∃ f, step (routed (machine [] fun c => { c with pc := 0x5FFF })) = .fault f) ∧
    ∃ f, step (routed (machine [(0x200, 0xAD), (0x201, 0xFF), (0x202, 0x5F)] id)) = .fault f := ⟨⟨_, rfl⟩, ⟨_, rfl⟩, _, rfl⟩

/-- UnmappedAccessFaults. -/
theorem test_meets_UnmappedAccessFaults :
    ¬ (routed (machine [] id)).mapped 0x4020 ∧ ¬ (routed (machine [] id)).mapped 0x5FFF ∧
    ∀ imm, ReadOperand.absolute 0x4020 ≠ .immediate imm :=
  ⟨by rintro (h | h | h) <;> revert h <;> decide, by rintro (h | h | h) <;> revert h <;> decide, fun _ h => by cases h⟩

/-- NoInstructionTouchesLatchOrProgram, OnlyListedInstructionsWriteRegistersAndFlags, InstructionsWithoutStoreLeaveMemory. -/
theorem test_meets_InstructionsWithoutStoreLeaveMemory :
    (¬ storesToEa (.asl .accumulator) ∧ (Instr.asl .accumulator).mnemonic ∉ pushers ∧
      ∃ t, exec (.asl .accumulator) (machine [] id) = .next t) ∧
    (¬ storesToEa (.lda (.absolute 0x2007)) ∧ ∃ t, exec (.lda (.absolute 0x2007)) (machine [] id) = .next t) ∧
    ((Instr.pha).mnemonic ∈ pushers ∧ ∃ t, exec .pha (machine [] id) = .next t) ∧
    ((Instr.jsr 0).mnemonic ∈ pushers ∧ ∃ t, exec (.jsr 0) (machine [] id) = .next t) ∧
    ((Instr.brk).mnemonic ∈ pushers ∧ ∃ t, exec .brk (machine [] id) = .next t) :=
  ⟨⟨fun h => h.2 rfl, by decide, _, rfl⟩, ⟨fun h => absurd h.1 (by decide), _, rfl⟩, ⟨by decide, _, rfl⟩, ⟨by decide, _, rfl⟩,
    by decide, _, rfl⟩

/-- StoresLeaveOtherMemory: a store at each end of each range, and at each device of its own, completes. -/
theorem test_meets_StoresLeaveOtherMemory :
    (∀ ea, storesToEa (.sta (.absolute ea)) ∧ (machine [] id).ea (Instr.sta (.absolute ea)).operand = ea) ∧
    ([0x0000, 0x1FFF, 0x2000, 0x3FFF, 0x4000, 0x4014, 0x4016, 0x4017, 0x5FFF, 0x6000, 0x7FFF, 0x8000, 0xFFFF] :
      List Word).all (fun ea => ran (.sta (.absolute ea)) (machine [] id) (fun _ => ()) == some ()) = true :=
  ⟨fun _ => ⟨⟨.head _, fun h => by cases h⟩, rfl⟩, by decide +kernel⟩

/-- ProcessorSpaceIsRouted: each range of R110 at its ends; no address falls under two of the clauses. -/
theorem test_meets_ProcessorSpaceIsRouted :
    (0x1FFF#16).toNat < 0x2000 ∧ 0x2000 ≤ (0x2000#16).toNat ∧ (0x3FFF#16).toNat < 0x4000 ∧ 0x4000 ≤ (0x4000#16).toNat ∧
    (0x401F#16).toNat < 0x4020 ∧ 0x401F#16 ≠ 0x4017#16 ∧ 0x4020 ≤ (0x4020#16).toNat ∧ (0x5FFF#16).toNat < 0x6000 ∧
    (machine [] id).cfg.expansionRouting = .zero ∧ (routed (machine [] id)).cfg.expansionRouting = .mapper ∧
    0x6000 ≤ (0x6000#16).toNat ∧ (0x7FFF#16).toNat < 0x8000 ∧ 0x8000 ≤ (0x8000#16).toNat := by decide

/-- DmaCopiesAPageToOam: the pages where its clauses meet, with either routing of the expansion range. -/
theorem test_meets_DmaCopiesAPageToOam :
    Sparse.wf (machine [] id).ppu.oam = true ∧ (machine [] id).cfg.expansionRouting = .zero ∧
    (routed (machine [] id)).cfg.expansionRouting ≠ .zero ∧
    (0x1F#8).toNat < 0x20 ∧ 0x60 ≤ (0x60#8).toNat ∧ 0x60 ≤ (0xFF#8).toNat ∧ (0x3F#8).toNat < 0x40 ∧
    ([0x40#8, 0x5F#8].all fun v => decide (¬ (v.toNat < 0x40 ∨ 0x60 ≤ v.toNat))) = true := by decide

/-- PictureRegisterReadsAndDataPort: v on either side of the palette's first address, and at the top. -/
theorem test_meets_PictureRegisterReadsAndDataPort :
    (0x3EFF#15).toNat % 0x4000 < 0x3F00 ∧ 0x3F00 ≤ (0x3F00#15).toNat % 0x4000 ∧ 0x3F00 ≤ (0x7FFF#15).toNat % 0x4000 := by decide

/-- The cartridge after reset keeps its banked addresses inside its arrays. -/
theorem resetCart_inv : State.reset.cart.Inv :=
  have hp : 0 < State.reset.cart.prg.len ∧ State.reset.cart.mapper.prgUnit ∣ State.reset.cart.prg.len := by decide
  have hc : 0 < State.reset.cart.chr.len ∧ 0x2000 ∣ State.reset.cart.chr.len := by decide
  Cartridge.Inv.ofRoom hp hc trivial Sparse.Inv.nil Sparse.Inv.nil Sparse.Inv.nil

/-- PictureSpaceStoresBytes, EveryStepKeepsTheInvariant: a machine at 0x0200 with a NOP there meets the invariant, and steps; and
one whose step faults meets it too. -/
theorem test_meets_EveryStepKeepsTheInvariant :
    ((machine [(0x0200, 0xEA)] id).Inv ∧ (seen (fun t => t.cpu.pc) (step (machine [(0x0200, 0xEA)] id))) = some 0x0201) ∧
    (routed (machine [] fun c => { c with pc := 0x4020 })).Inv ∧
    ∃ r t, step (routed (machine [] fun c => { c with pc := 0x4020 })) = .fault (.mapperUnmapped r t) :=
  ⟨⟨⟨⟨rfl, rfl⟩, ⟨by decide, by decide⟩, fun _ => rfl, fun _ => rfl, Ppu.reset_inv, resetCart_inv, rfl⟩, by decide⟩,
    ⟨⟨rfl, rfl⟩, Sparse.Inv.nil, fun _ => rfl, fun _ => rfl, Ppu.reset_inv, resetCart_inv, rfl⟩, _, _, rfl⟩

/-- NametablesAreMirrored. -/
theorem test_meets_NametablesAreMirrored :
    ntIndex .vertical (0x2000 + 0x400 * 3 + 0x3FF) = 0x7FF ∧ ntIndex .vertical (0x2EFF + 0x1000) = ntIndex .vertical 0x2EFF := by
  decide

/-- RasterAdvances, FrameLength: the raster positions where the clauses meet. -/
theorem test_meets_RasterAdvances :
    (∀ f, (atDot 261 340 f).ppu.scanline = (f { (machine [] id).ppu with scanline := 261, dot := 340 }).scanline) ∧
    ((ppuStep (atDot 261 340 id)).ppu.scanline, (ppuStep (atDot 260 340 id)).ppu.scanline) = (0, 261) ∧
    ((ppuStep (atDot 0 339 id)).ppu.dot, (ppuStep (atDot 0 340 id)).ppu.dot) = (340, 0) ∧
    (atDot 261 0 id).ppu.dot = 0 ∧ (atDot 261 0 id).ppu.scanline = 261 := ⟨fun _ => rfl, by decide, by decide, rfl, rfl⟩

/-- VblankSetsAndClears, NmiFiresAfterCountdown: the two positions are reached, and the countdown runs at 1 and at 0. -/
theorem test_meets_VblankSetsAndClears :
    ((ppuStep (atDot 241 0 id)).ppu.scanline, (ppuStep (atDot 241 0 id)).ppu.dot) = (241, 1) ∧
    ((ppuStep (atDot 261 0 id)).ppu.scanline, (ppuStep (atDot 261 0 id)).ppu.dot) = (261, 1) ∧
    (ppuStep (atDot 241 1 id)).ppu.dot = 2 ∧ (atDot 241 0 id).ppu.nmiDelay = 0 ∧
    0 < (atDot 241 0 fun p => { p with nmiDelay := 1 }).ppu.nmiDelay := by decide

/-- The picture machine with the background shown. -/
def showing (line dot : Nat) : State := atDot line dot fun p => { p with mask := { p.mask with showBg := true } }

/-- BackgroundFetchesAndScroll: the first and last dots of each class are reached, with rendering and without. -/
theorem test_meets_BackgroundFetchesAndScroll :
    (showing 239 0).ppu.rendering = true ∧ (atDot 239 0 id).ppu.rendering = false ∧
    (∀ dot ∈ [0, 7, 255, 256, 320, 335], (ppuStep (showing 239 dot)).ppu.dot = dot + 1 ∧
      (ppuStep (showing 239 dot)).ppu.scanline = 239) ∧
    ∀ dot ∈ [279, 303, 335, 336], (ppuStep (showing 261 dot)).ppu.dot = dot + 1 ∧
      (ppuStep (showing 261 dot)).ppu.scanline = 261 := by decide

/-- SpriteEvaluationKeepsEight: a hit in the last line that has one, the ninth entry included, and the pre-render line; the last
row of either sprite size; and the picture steps to dot 257 where the next line is the last visible one, the first that is not,
and line 0. -/
theorem test_meets_SpriteEvaluationKeepsEight :
    (let s := atDot 238 257 fun p => { p with oam := [(0, 231), (4 * 63, 238)] }
     s.ppu.scanline ≤ 238 ∧
     ((List.range 64).filter fun i => decide ((Sparse.read s.ppu.oam (4 * i)).toNat ≤ 238 ∧
       238 < (Sparse.read s.ppu.oam (4 * i)).toNat + 8)) = [0, 63] ∧
     (evaluateSprites s).ppu.spriteCount = 2 ∧ (atDot 261 257 id).ppu.scanline = 261) ∧
    ((machine [] id).ppu.ctrl.spriteSize16 = false ∧ (ppuRegWrite 0 0x20 (machine [] id)).ppu.ctrl.spriteSize16 = true) ∧
    (∀ line ∈ [238, 239, 261], (ppuStep (showing line 256)).ppu.dot = 257 ∧ (ppuStep (showing line 256)).ppu.scanline = line) ∧
    (238 + 1) % 262 ≤ 239 ∧ 239 < (239 + 1) % 262 ∧ (261 + 1) % 262 ≤ 239 := by
  decide +kernel

/-- R581, by hand: a tile row over palette 3; the last row of an 8x16 sprite, which is row 7 of the odd tile of table 1; its
horizontal flip; and the vertical flip, which brings it to row 0. -/
theorem test_sprite_pattern :
    let s := { machine [] id with cart := ⟨.fixedChr ⟨0⟩, ⟨0x4000, []⟩, ⟨0x2000, [(0x0010, 0x81), (0x1037, 0x0F)]⟩, [], .horizontal⟩ }
    let t := ppuRegWrite 0 0x20 s
    spritePattern s 0x01 0x03 0 = 0xDCCCCCCD#32 ∧ spritePattern t 0x03 0x00 15 = 0x00001111#32 ∧
    spritePattern t 0x03 0x40 15 = 0x11110000#32 ∧ spritePattern t 0x03 0x80 0 = 0x00001111#32 := by decide

/-- PixelsCombine: opaque and transparent pixels of both kinds, and a column at each end of a slot. -/
theorem test_meets_PixelsCombine :
    (0x1#4).toNat % 4 ≠ 0 ∧ (0x4#4).toNat % 4 = 0 ∧
    (let sl : SpriteSlot := { SpriteSlot.reset with x := 10, pattern := 0x11111111 }
     firstOpaque 10 1 [sl] = some (sl, 1) ∧ firstOpaque 17 1 [sl] = some (sl, 1) ∧ firstOpaque 18 1 [sl] = none) := by decide

/-- RenderingDrawsOnePixel: the first and the last pixel of a line are reached while rendering. -/
theorem test_meets_RenderingDrawsOnePixel :
    let s := fun dot => atDot 239 dot fun p => { p with mask := { p.mask with showBg := true } }
    Sparse.wf (s 0).ppu.back = true ∧ (s 0).ppu.rendering = true ∧
    ((ppuStep (s 0)).ppu.scanline, (ppuStep (s 0)).ppu.dot) = (239, 1) ∧
    ((ppuStep (s 255)).ppu.scanline, (ppuStep (s 255)).ppu.dot) = (239, 256) :=
  ⟨rfl, rfl, rfl, rfl⟩

/-- FixedChrWindows, FiveWritesLoadAShiftRegister, ShiftRegisterResetAndWindows, ScanlineRegisters: cartridges of each kind, with
an empty register, and the control values of the four PRG modes and two CHR modes. -/
theorem test_meets_mapper_statements :
    State.reset.cart.mapper = .fixedChr ⟨0⟩ ∧
    (Cartridge.shiftReg shiftCart).map (·.shift) = some 0x10 ∧ (0x7F#8).getLsbD 7 = false ∧ (0x80#8).getLsbD 7 = true ∧
    [0x00, 0x04, 0x08, 0x0C].map (fun c : BitVec 5 => (c.extractLsb' 2 2).toNat) = [0, 1, 2, 3] ∧
    [0x00, 0x10].map (fun c : BitVec 5 => c.getLsbD 4) = [false, true] ∧
    (scanMachine 0 260 id).cart.mapper = .scanlineIrq (ScanlineIrq.loaded 0x10000) ∧
    [(0x8000, 0xA000), (0xA000, 0xC000), (0xC000, 0xE000), (0xE000, 0x10000)].all (fun r : Nat × Nat =>
      decide (r.1 % 2 = 0 ∧ (r.2 - 1) % 2 = 1 ∧ r.2 - 1 < 0x10000)) = true := by decide

/-- BankOffsetsStayInside: one bank, and the two ends of each range of the index. -/
theorem test_meets_BankOffsetsStayInside :
    [(0 : Int), 0x7F, 0x80, 0xFF].map (fun i => bankOffset i 0x2000 (1 * 0x2000)) = [0, 0, 0, 0] ∧
    [(0 : Int), 0x7F, 0x80, 0xFF].map (fun i => bankOffset i 0x2000 (3 * 0x2000)) = [0, 0x2000, 0x2000, 0x4000] := by decide

/-- ScanlineCounterReachesZero: the clocked dot on the last clocked line of each kind, and a line and a dot that do not clock. -/
theorem test_meets_ScanlineCounterReachesZero :
    ([239, 261].all fun l => let s := scanMachine l 260 id
      decide (s.ppu.dot = 260 ∧ (s.ppu.scanline < 240 ∨ 260 < s.ppu.scanline) ∧ s.ppu.rendering = true)) = true ∧
    (ScanlineIrq.loaded 0x10000).irqCounter = 0 ∧ 0 ≤ (ScanlineIrq.loaded 0x10000).irqLatch.toNat ∧
    ∀ st, State.reset.cart.mapper ≠ .scanlineIrq st := ⟨by decide, rfl, by decide, fun _ h => by cases h⟩

/-- LoadFillsTheArrays, LoadResetsTheMachine, ResetAndLoadsMeetTheInvariant: a load of each variant completes. -/
theorem test_meets_LoadResetsTheMachine :
    ([0, 3, 1, 4, 2] : List Int).map (fun k => Config.spec.mapperSelector.lookup k) =
      [some Variant.fixedChr, some .fixedChr, some .shiftReg, some .scanlineIrq, none] ∧
    ∀ sel ∈ ([0, 1, 3, 4] : List Int), ∃ s, State.load Config.spec [0xEA] [] sel = .ok s := by
  refine ⟨by decide, fun sel h => ?_⟩
  simp only [List.mem_cons, List.not_mem_nil, or_false] at h
  rcases h with rfl | rfl | rfl | rfl <;> exact ⟨_, rfl⟩

end Sys2Proof.Tests
end

section
/-! SUPPORT. The stack primitives over the stack slots of page 1 (10_state.md R39, R40), and the status byte as a sum (R37). -/

namespace Sys2Proof.Machine

open Sys2Proof.Claim

/-! ### Stack slots -/

/-- A stack address is console RAM, at its slot of page 1 (R39). -/
@[simp] theorem ramIndex_stackAddress (sp : Byte) : ramIndex (stackAddress sp) = slot sp := ramIndex_stack sp

theorem slot_mem_page1 (sp : Byte) : 0x100 ≤ slot sp ∧ slot sp ≤ 0x1FF := by
  have := sp.isLt
  unfold slot
  omega

/-- Raising the stack pointer changes the slot, also where it wraps from 0xFF to 0x00. -/
theorem slot_add_one_ne (sp : Byte) : slot (sp + 1) ≠ slot sp := by
  unfold slot
  bv_omega

/-! ### Push and pull -/

theorem State.push_eq (s : State) (v : Byte) :
    s.push v = { s with ram := Sparse.write s.ram (slot s.cpu.sp) v, cpu := { s.cpu with sp := s.cpu.sp - 1 } } := by
  rw [← ramIndex_stackAddress]
  rfl

theorem State.pulledByte_eq (s : State) : s.pulledByte = Sparse.read s.ram (slot (s.cpu.sp + 1)) := by
  rw [← ramIndex_stackAddress]
  rfl

theorem State.pulledByte_push {s : State} (h : Sparse.wf s.ram = true) (v : Byte) : (s.push v).pulledByte = v := by
  rw [State.pulledByte_eq, State.push_eq, BitVec.sub_add_cancel]
  exact Sparse.read_write_same h _ v

/-- A push lies below what the stack held: pulling past it finds the byte that a pull found before. -/
theorem State.pulledByte_afterPull_push (s : State) (v : Byte) : (s.push v).afterPull.pulledByte = s.pulledByte := by
  simp only [State.pulledByte_eq, State.push_eq, State.afterPull_cpu, State.afterPull_ram, BitVec.sub_add_cancel]
  exact Sparse.read_write_other _ _ (slot_add_one_ne _)

theorem State.pulledWord_push16 {s : State} (h : Sparse.wf s.ram = true) (w : Word) : (s.push16 w).pulledWord = w := by
  have hhi : Sparse.wf (s.push (Word.hi w)).ram = true := Sparse.write_wf _ _ _ h
  unfold State.push16 State.pulledWord
  rw [State.pulledByte_push hhi, State.pulledByte_afterPull_push, State.pulledByte_push h, wordOf_lo_hi]

/-! ### The status byte -/

theorem Flags.pack_toNat (f : Flags) :
    f.pack.toNat = f.c.toNat + 2 * f.z.toNat + 4 * f.i.toNat + 8 * f.d.toNat + 16 * f.b.toNat + 32 * f.u.toNat +
      64 * f.v.toNat + 128 * f.n.toNat := by
  obtain ⟨c, z, i, d, b, u, v, n⟩ := f
  revert c z i d b u v n
  decide

/-- Settles O18: the flags by the packing's laws; the stack by the rule of each primitive, where a pulled word is the low byte
just pushed and, past it, the high byte pushed before. -/
theorem statusByteAndStack : Obligations.StatusByteAndStack := by
  unfold Obligations.StatusByteAndStack
  refine ⟨⟨Flags.pack_toNat, Flags.unpack_pack, Flags.pack_unpack⟩, fun s v w => ?_⟩
  have hpushed : Sparse.wf s.ram = true → (s.push v).pulledByte = v ∧ (s.push16 w).pulledWord = w := fun h =>
    ⟨State.pulledByte_push h v, State.pulledWord_push16 h w⟩
  exact ⟨State.push_eq s v, rfl, State.pulledByte_eq s, rfl, rfl, rfl, hpushed, slot_mem_page1 s.cpu.sp⟩

end Sys2Proof.Machine
end

section
/-! SUPPORT. Processor-space routing (20_memory.md R110) as one lemma per target, and picture space (R120 to R123): the nametable
index by quadrant, the palette's aliases, and a read after a write. -/

namespace Sys2Proof.Machine

/-! ### Processor-space reads -/

theorem memRead_pictureRegister {a : Word} (s : State) (hlo : 0x2000 ≤ a.toNat) (hhi : a.toNat < 0x4000) :
    memRead a s = .ok (ppuRegRead (a.toNat % 8) s).1 (ppuRegRead (a.toNat % 8) s).2 := by
  unfold memRead
  dsimp only
  rw [if_neg (by omega), if_pos hhi]

theorem memRead_controllerOne (s : State) :
    memRead 0x4016#16 s = .ok (controllerRead .one s).1 (controllerRead .one s).2 := rfl

theorem memRead_controllerTwo (s : State) :
    memRead 0x4017#16 s = .ok (controllerRead .two s).1 (controllerRead .two s).2 := rfl

/-- The sound and DMA registers read 0 (20_memory.md R105, R108). -/
theorem memRead_sink {a : Word} (s : State) (hlo : 0x4000 ≤ a.toNat) (hhi : a.toNat < 0x4020) (h16 : a ≠ 0x4016#16)
    (h17 : a ≠ 0x4017#16) : memRead a s = .ok 0 s := by
  have hn16 : a.toNat ≠ 0x4016 := fun h => h16 (BitVec.eq_of_toNat_eq h)
  have hn17 : a.toNat ≠ 0x4017 := fun h => h17 (BitVec.eq_of_toNat_eq h)
  unfold memRead
  dsimp only
  rw [if_neg (by omega), if_neg (by omega), if_neg hn16, if_neg hn17, if_pos hhi, ite_self]

/-- The expansion range without the mapper reads 0 (20_memory.md R107). -/
theorem memRead_expansion_zero {a : Word} {s : State} (hlo : 0x4020 ≤ a.toNat) (hhi : a.toNat < 0x6000)
    (hz : s.cfg.expansionRouting = .zero) : memRead a s = .ok 0 s := by
  unfold memRead
  dsimp only
  rw [if_neg (by omega), if_neg (by omega), if_neg (by omega), if_neg (by omega), if_neg (by omega), if_neg (by omega),
    if_pos ⟨hhi, hz⟩]

/-! ### Processor-space writes -/

theorem memWrite_ram {a : Word} (v : Byte) (s : State) (h : a.toNat < 0x2000) : memWrite a v s = .ok () (s.writeRam a v) := by
  unfold memWrite
  dsimp only
  rw [if_pos h]

theorem memWrite_pictureRegister {a : Word} (v : Byte) (s : State) (hlo : 0x2000 ≤ a.toNat) (hhi : a.toNat < 0x4000) :
    memWrite a v s = .ok () (ppuRegWrite (a.toNat % 8) v s) := by
  unfold memWrite
  dsimp only
  rw [if_neg (by omega), if_pos hhi]

theorem memWrite_dma (v : Byte) (s : State) : memWrite 0x4014#16 v s = oamDma v s := rfl

theorem memWrite_controllerOne (v : Byte) (s : State) : memWrite 0x4016#16 v s = .ok () (controllerWrite .one v s) := rfl

theorem memWrite_controllerTwo (v : Byte) (s : State) : memWrite 0x4017#16 v s = .ok () (controllerWrite .two v s) := rfl

/-- A write to a sound register has no effect (20_memory.md R108). -/
theorem memWrite_sink {a : Word} (v : Byte) (s : State) (hlo : 0x4000 ≤ a.toNat) (hhi : a.toNat < 0x4020)
    (h14 : a ≠ 0x4014#16) (h16 : a ≠ 0x4016#16) (h17 : a ≠ 0x4017#16) : memWrite a v s = .ok () s := by
  have hn14 : a.toNat ≠ 0x4014 := fun h => h14 (BitVec.eq_of_toNat_eq h)
  have hn16 : a.toNat ≠ 0x4016 := fun h => h16 (BitVec.eq_of_toNat_eq h)
  have hn17 : a.toNat ≠ 0x4017 := fun h => h17 (BitVec.eq_of_toNat_eq h)
  unfold memWrite
  dsimp only
  rw [if_neg (by omega), if_neg (by omega), if_neg hn14, if_neg hn16, if_neg hn17, if_pos hhi]

/-- A write to the expansion range without the mapper has no effect (20_memory.md R107). -/
theorem memWrite_expansion_zero {a : Word} (v : Byte) {s : State} (hlo : 0x4020 ≤ a.toNat) (hhi : a.toNat < 0x6000)
    (hz : s.cfg.expansionRouting = .zero) : memWrite a v s = .ok () s := by
  unfold memWrite
  dsimp only
  rw [if_neg (by omega), if_neg (by omega), if_neg (by omega), if_neg (by omega), if_neg (by omega), if_neg (by omega),
    if_pos ⟨hhi, hz⟩]

/-- A write from 0x6000 on is the mapper's. -/
theorem memWrite_cart {a : Word} {v : Byte} {s : State} {c : Cartridge} (h : 0x6000 ≤ a.toNat)
    (hc : s.cart.write a.toNat v = some c) : memWrite a v s = .ok () { s with cart := c } := by
  unfold memWrite
  dsimp only
  rw [if_neg (by omega), if_neg (by omega), if_neg (by omega), if_neg (by omega), if_neg (by omega), if_neg (by omega),
    if_neg (by omega), hc]

/-! ### The mapper's ranges of processor space -/

theorem Cartridge.read_sram (c : Cartridge) {a : Nat} (hlo : 0x6000 ≤ a) (hhi : a < 0x8000) :
    c.read a = some (Sparse.read c.sram (a - 0x6000)) := by
  unfold Cartridge.read
  rw [if_neg (by omega), if_neg (by omega), if_pos hlo]

theorem Cartridge.read_prg (c : Cartridge) {a : Nat} (h : 0x8000 ≤ a) : c.read a = some (c.prgRead a) := by
  unfold Cartridge.read
  rw [if_neg (by omega), if_pos h]

theorem Cartridge.write_sram (c : Cartridge) {a : Nat} (v : Byte) (hlo : 0x6000 ≤ a) (hhi : a < 0x8000) :
    c.write a v = some { c with sram := Sparse.write c.sram (a - 0x6000) v } := by
  unfold Cartridge.write
  rw [if_neg (by omega), if_neg (by omega), if_pos hlo]

theorem Cartridge.write_register (c : Cartridge) {a : Nat} (v : Byte) (h : 0x8000 ≤ a) :
    c.write a v = some (c.registerWrite a v) := by
  unfold Cartridge.write
  rw [if_neg (by omega), if_pos h]

theorem State.not_mapped_of_mapper {s : State} {a : Word} (hlo : 0x4020 ≤ a.toNat) (hhi : a.toNat < 0x6000)
    (hm : s.cfg.expansionRouting = .mapper) : ¬ s.mapped a := by
  rintro (hz | hlt | hge)
  · cases hm.symm.trans hz
  · omega
  · omega

/-- Settles O35: each clause is the rule of one target of the routing. -/
theorem processorSpaceIsRouted : Obligations.ProcessorSpaceIsRouted := by
  unfold Obligations.ProcessorSpaceIsRouted
  refine ⟨fun a s => ⟨memRead_ram s, memRead_pictureRegister s, ?one, ?two, memRead_sink s, memRead_expansion_zero, ?mapper,
    ?sram, ?prg⟩, fun a v s => ⟨memWrite_ram v s, memWrite_pictureRegister v s, ?wdma, ?wone, ?wtwo, memWrite_sink v s,
    memWrite_expansion_zero v, ?wmapper, ?wsram, ?wregister⟩⟩
  case one => rintro rfl; exact memRead_controllerOne s
  case two => rintro rfl; exact memRead_controllerTwo s
  case mapper => exact fun hlo hhi hm => memRead_unmapped (State.not_mapped_of_mapper hlo hhi hm)
  case sram => exact fun hlo hhi => memRead_cart hlo (s.cart.read_sram hlo hhi)
  case prg => exact fun h => memRead_cart (by omega) (s.cart.read_prg h)
  case wdma => rintro rfl; exact memWrite_dma v s
  case wone => rintro rfl; exact memWrite_controllerOne v s
  case wtwo => rintro rfl; exact memWrite_controllerTwo v s
  case wmapper => exact fun hlo hhi hm => memWrite_unmapped v (State.not_mapped_of_mapper hlo hhi hm)
  case wsram => exact fun hlo hhi => memWrite_cart hlo (s.cart.write_sram v hlo hhi)
  case wregister => exact fun h => memWrite_cart (by omega) (s.cart.write_register v h)

/-! ### Picture space -/

/-- The nametable index in a quadrant: the physical quadrant of the table, folded to the two of the 2 KiB RAM, and the offset
(20_memory.md R121). -/
theorem ntIndex_quadrant (m : Mirroring) {q o : Nat} (hq : q < 4) (ho : o < 0x400) :
    ntIndex m (0x2000 + 0x400 * q + o) = mirrorQuadrant m q % 2 * 0x400 + o := by
  have hr : (0x2000 + 0x400 * q + o - 0x2000) % 0x1000 = 0x400 * q + o := by omega
  have hdiv : (0x400 * q + o) / 0x400 = q := by omega
  have hmod : (0x400 * q + o) % 0x400 = o := by omega
  simp only [ntIndex, hr, hdiv, hmod]
  omega

theorem ntIndex_repeat (m : Mirroring) {a : Nat} (h : 0x2000 ≤ a) : ntIndex m (a + 0x1000) = ntIndex m a := by
  have hr : (a + 0x1000 - 0x2000) % 0x1000 = (a - 0x2000) % 0x1000 := by omega
  simp only [ntIndex, hr]

/-- Settles O40: the index in a quadrant, with the table read off at each of its twenty places; the repeat is the remainder
modulo 0x1000. -/
theorem nametablesAreMirrored : Obligations.NametablesAreMirrored := by
  unfold Obligations.NametablesAreMirrored
  refine ⟨fun m q o hq ho => ?_, fun m a h _ => ntIndex_repeat m h⟩
  rw [ntIndex_quadrant m hq ho]
  congr 1
  cases m <;> interval_cases q <;> rfl

theorem palIndex_aliases (a : Nat) : palIndex a = if a % 32 ∈ [16, 20, 24, 28] then a % 32 - 16 else a % 32 := by
  have hiff : (16 ≤ a % 32 ∧ a % 32 % 4 = 0) ↔ a % 32 ∈ [16, 20, 24, 28] := by
    simp only [List.mem_cons, List.not_mem_nil, or_false]
    omega
  simp only [palIndex, hiff]

theorem ppuRead_mod (s : State) (a : Nat) : ppuRead s (a % 0x4000) = ppuRead s a := by
  simp only [ppuRead, Nat.mod_mod]

/-- A pattern write leaves the banks, so a read of the same address meets the same index of the array (62_mappers.md R653). -/
theorem Cartridge.chrRead_chrWrite {c : Cartridge} (h : Sparse.wf c.chr.cells = true) (a : Nat) (v : Byte) :
    (c.chrWrite a v).chrRead a = v :=
  Sparse.read_write_same h (c.chrAddr a) v

/-- A picture-space read gives the byte just written at the address, where the three memories are in canonical form. -/
theorem ppuRead_ppuWrite {s : State} (hchr : Sparse.wf s.cart.chr.cells = true) (hnt : Sparse.wf s.ppu.nt = true)
    (hpal : Sparse.wf s.ppu.pal = true) (a : Nat) (v : Byte) : ppuRead (ppuWrite s a v) a = v := by
  unfold ppuRead ppuWrite
  dsimp only
  by_cases hpattern : a % 0x4000 < 0x2000
  · simp only [if_pos hpattern]
    exact Cartridge.chrRead_chrWrite hchr _ v
  · by_cases hnametable : a % 0x4000 < 0x3F00
    · simp only [if_neg hpattern, if_pos hnametable]
      exact Sparse.read_write_same hnt _ v
    · simp only [if_neg hpattern, if_neg hnametable]
      exact Sparse.read_write_same hpal _ v

/-- Settles O41: the invariant keeps the three memories canonical; the rest holds of every state. -/
theorem pictureSpaceStoresBytes : Obligations.PictureSpaceStoresBytes := by
  unfold Obligations.PictureSpaceStoresBytes
  refine ⟨fun a v s hinv => ?_, fun a s => (ppuRead_mod s a).symm, fun a _ _ => palIndex_aliases a⟩
  obtain ⟨hchr, -⟩ := hinv.cart.chr
  obtain ⟨hnt, -⟩ := hinv.ppu.nt
  obtain ⟨hpal, -⟩ := hinv.ppu.pal
  exact ppuRead_ppuWrite hchr hnt hpal a v

end Sys2Proof.Machine
end

section
/-! SUPPORT. The rules' layouts as rows of the opcode map, what `perform` does with a laid-out instruction, and the loads, stores
and transfers (41_load_store_transfer.md; the index counts of 43_incdec_shift.md) settled by it. -/

namespace Sys2Proof.Machine

open Sys2Proof.Claim

/-! ### Layouts and rows of the opcode map -/

/-- The layout is the opcode map's row of the instruction, and the row's `build` makes the instruction from its operand bytes
(30_encoding.md R161, R167). The indirect jump, whose pointer read may have side effects, is left out. -/
structure Laid (i : Instr) (l : Layout) : Prop where
  op : i.opcode = l.op := by rfl
  length : opLength l.op = l.length := by rfl
  cycles : opBaseCycles l.op = l.cycles := by rfl
  penalty : (opRow l.op).pagePenalty = l.penalty := by rfl
  readBytes : (opRow l.op).readBytes = i.operand.bytes.length := by rfl
  build : (opRow l.op).build (i.operand.bytes.getD 0 0) (i.operand.bytes.getD 1 0) = i := by rfl
  direct : ∀ p, i.operand ≠ .indirect p := by nofun

/-- An operand has no byte, one, or two (R161). -/
theorem Operand.bytes_cases (o : Operand) :
    o.bytes = [] ∨ (∃ b, o.bytes = [b]) ∨ ∃ lo hi, o.bytes = [lo, hi] := by
  cases o with
  | implied | accumulator | unreadImmediate => exact .inl rfl
  | immediate | zeroPage | zeroPageX | zeroPageY | indexedIndirect | indirectIndexed | relative => exact .inr (.inl ⟨_, rfl⟩)
  | absolute | absoluteX | absoluteY | indirect => exact .inr (.inr ⟨_, _, rfl⟩)

theorem Laid.coded {i : Instr} {l : Layout} (h : Laid i l) : Coded i l := by
  intro rest
  have hread := h.readBytes
  have hbuild := h.build
  rcases Operand.bytes_cases i.operand with hb | ⟨b, hb⟩ | ⟨lo, hi, hb⟩ <;> rw [hb] at hread hbuild <;>
    simpa [decode, hb, hread] using hbuild

/-- Step 5 of 40_execution_addressing.md R205, from the layout's numbers. -/
theorem Laid.advanced_eq {i : Instr} {l : Layout} (h : Laid i l) (s : State) : s.advanced i = past s l i.operand := by
  simp only [State.advanced, past, h.op, h.length, h.cycles, h.penalty]

theorem Laid.perform_eq {i : Instr} {l : Layout} (h : Laid i l) (s : State) (handler : Word → State → Res Unit) :
    perform i s handler = (handler (s.ea i.operand) (past s l i.operand)).conclude i.opcode := by
  rw [Machine.perform_eq s handler h.direct, h.advanced_eq]

/-! ### The three shapes of a meaning -/

/-- `M` of R207 is there to be read, in the state past the instruction. -/
theorem operandByte_readable {s : State} {o : Operand} (l : Layout) (h : s.readable o) :
    ∃ m s1, IsM s l o m s1 ∧ operandByte o (s.ea o) (past s l o) = .ok m s1 := by
  cases o with
  | immediate imm => exact ⟨imm, _, ⟨rfl, rfl⟩, rfl⟩
  | _ =>
    obtain ⟨m, s1, hm⟩ := memRead_ok (s := past s l _) h
    exact ⟨m, s1, hm, hm⟩

theorem Laid.reads {i : Instr} {l : Layout} {f : Byte → State → State} (h : Laid i l)
    (hexec : ∀ s, exec i s = perform i s (readingM i.operand f)) : Reads i l f := by
  refine ⟨h.coded, fun s hs => ?_⟩
  obtain ⟨m, s1, hm, hread⟩ := operandByte_readable l hs
  refine ⟨m, s1, hm, ?_⟩
  rw [hexec, h.perform_eq, readingM, hread]
  rfl

/-- `hv`: the byte stored is no part of what step 5 moves. -/
theorem Laid.stores {i : Instr} {l : Layout} {v : Cpu → Byte} (h : Laid i l)
    (hv : ∀ s, v (past s l i.operand).cpu = v s.cpu)
    (hexec : ∀ s, exec i s = perform i s (storing fun s' => v s'.cpu)) : Stores i l v := by
  refine ⟨h.coded, fun s hs => ?_⟩
  obtain ⟨t, ht⟩ := memWrite_ok (s := past s l i.operand) hs
  obtain ⟨n, hn⟩ := ((memWrite_spec _ _ _).1 t ht).1.cpu
  refine ⟨t, n, ht, ?_, hn⟩
  rw [hexec, h.perform_eq, storing, hv, ht]
  rfl

theorem Laid.implied {i : Instr} {l : Layout} {f : State → State} (h : Laid i l) (ho : i.operand = .implied)
    (hexec : ∀ s, exec i s = perform i s (changing f)) : Implied i l f := by
  refine ⟨ho, h.coded, fun s => ?_⟩
  rw [hexec, h.perform_eq, ho]
  rfl

/-! ### Loads, stores, transfers -/

theorem laid_lda (o : ReadOperand) : Laid (.lda o) (eight 0xA9 0xA5 0xB5 0xAD 0xBD 0xB9 0xA1 0xB1 o) := by
  cases o with
  | absolute a => exact { build := congrArg (Instr.lda ∘ ReadOperand.absolute) (wordOf_lo_hi a) }
  | absoluteX a => exact { build := congrArg (Instr.lda ∘ ReadOperand.absoluteX) (wordOf_lo_hi a) }
  | absoluteY a => exact { build := congrArg (Instr.lda ∘ ReadOperand.absoluteY) (wordOf_lo_hi a) }
  | _ => exact {}

theorem laid_ldx (o : LdxOperand) : Laid (.ldx o) (ldxLayout o) := by
  cases o with
  | absolute a => exact { build := congrArg (Instr.ldx ∘ LdxOperand.absolute) (wordOf_lo_hi a) }
  | absoluteY a => exact { build := congrArg (Instr.ldx ∘ LdxOperand.absoluteY) (wordOf_lo_hi a) }
  | _ => exact {}

theorem laid_ldy (o : LdyOperand) : Laid (.ldy o) (ldyLayout o) := by
  cases o with
  | absolute a => exact { build := congrArg (Instr.ldy ∘ LdyOperand.absolute) (wordOf_lo_hi a) }
  | absoluteX a => exact { build := congrArg (Instr.ldy ∘ LdyOperand.absoluteX) (wordOf_lo_hi a) }
  | _ => exact {}

theorem laid_sta (o : StaOperand) : Laid (.sta o) (staLayout o) := by
  cases o with
  | absolute a => exact { build := congrArg (Instr.sta ∘ StaOperand.absolute) (wordOf_lo_hi a) }
  | absoluteX a => exact { build := congrArg (Instr.sta ∘ StaOperand.absoluteX) (wordOf_lo_hi a) }
  | absoluteY a => exact { build := congrArg (Instr.sta ∘ StaOperand.absoluteY) (wordOf_lo_hi a) }
  | _ => exact {}

theorem laid_stx (o : StxOperand) : Laid (.stx o) (stxLayout o) := by
  cases o with
  | absolute a => exact { build := congrArg (Instr.stx ∘ StxOperand.absolute) (wordOf_lo_hi a) }
  | _ => exact {}

theorem laid_sty (o : StyOperand) : Laid (.sty o) (styLayout o) := by
  cases o with
  | absolute a => exact { build := congrArg (Instr.sty ∘ StyOperand.absolute) (wordOf_lo_hi a) }
  | _ => exact {}

/-- Settles O5: each load is its row's `readingM`, whose change of the state is the statement's. -/
theorem loadsTakeTheOperand : Obligations.LoadsTakeTheOperand := by
  unfold Obligations.LoadsTakeTheOperand
  exact ⟨fun o => (laid_lda o).reads fun _ => rfl, fun o => (laid_ldx o).reads fun _ => rfl,
    fun o => (laid_ldy o).reads fun _ => rfl⟩

/-- Settles O6: each store is its row's `storing`; a storable write answers and keeps the write frame. -/
theorem storesWriteTheRegister : Obligations.StoresWriteTheRegister := by
  unfold Obligations.StoresWriteTheRegister
  exact ⟨fun o => (laid_sta o).stores (fun _ => rfl) fun _ => rfl,
    fun o => (laid_stx o).stores (fun _ => rfl) fun _ => rfl, fun o => (laid_sty o).stores (fun _ => rfl) fun _ => rfl⟩

/-- Settles O7: each is its row's `changing`, whose change of the state is the statement's. -/
theorem transfersAndIndexCounts : Obligations.TransfersAndIndexCounts := by
  unfold Obligations.TransfersAndIndexCounts
  refine ⟨?tax, ?tay, ?txa, ?tya, ?tsx, ?txs, ?inx, ?iny, ?dex, ?dey⟩
  all_goals exact Laid.implied {} rfl fun _ => rfl

end Sys2Proof.Machine
end

section
/-! SUPPORT. The layouts of the arithmetic, logic and compare instructions as rows of the opcode map, the sums and flags of
42_arith_logic_compare.md in the statements' terms, and the family settled by them. -/

namespace Sys2Proof.Machine

open Sys2Proof.Claim

/-! ### Layouts and rows of the opcode map -/

/-- The operand as a row's `build` makes it from the operand's own bytes (30_encoding.md R161). -/
def ReadOperand.rebuilt : ReadOperand → ReadOperand
  | .absolute a => .absolute (wordOf (Word.lo a) (Word.hi a))
  | .absoluteX a => .absoluteX (wordOf (Word.lo a) (Word.hi a))
  | .absoluteY a => .absoluteY (wordOf (Word.lo a) (Word.hi a))
  | o => o

theorem ReadOperand.rebuilt_eq (o : ReadOperand) : ReadOperand.rebuilt o = o := by
  cases o with
  | absolute a => exact congrArg ReadOperand.absolute (wordOf_lo_hi a)
  | absoluteX a => exact congrArg ReadOperand.absoluteX (wordOf_lo_hi a)
  | absoluteY a => exact congrArg ReadOperand.absoluteY (wordOf_lo_hi a)
  | _ => rfl

theorem laid_adc (o : ReadOperand) : Laid (.adc o) (eight 0x69 0x65 0x75 0x6D 0x7D 0x79 0x61 0x71 o) := by
  have hbuild := congrArg Instr.adc (ReadOperand.rebuilt_eq o)
  cases o <;> exact { build := hbuild }

theorem laid_sbc (o : ReadOperand) : Laid (.sbc o) (eight 0xE9 0xE5 0xF5 0xED 0xFD 0xF9 0xE1 0xF1 o) := by
  have hbuild := congrArg Instr.sbc (ReadOperand.rebuilt_eq o)
  cases o <;> exact { build := hbuild }

theorem laid_and (o : ReadOperand) : Laid (.and o) (eight 0x29 0x25 0x35 0x2D 0x3D 0x39 0x21 0x31 o) := by
  have hbuild := congrArg Instr.and (ReadOperand.rebuilt_eq o)
  cases o <;> exact { build := hbuild }

theorem laid_ora (o : ReadOperand) : Laid (.ora o) (eight 0x09 0x05 0x15 0x0D 0x1D 0x19 0x01 0x11 o) := by
  have hbuild := congrArg Instr.ora (ReadOperand.rebuilt_eq o)
  cases o <;> exact { build := hbuild }

theorem laid_eor (o : ReadOperand) : Laid (.eor o) (eight 0x49 0x45 0x55 0x4D 0x5D 0x59 0x41 0x51 o) := by
  have hbuild := congrArg Instr.eor (ReadOperand.rebuilt_eq o)
  cases o <;> exact { build := hbuild }

theorem laid_cmp (o : ReadOperand) : Laid (.cmp o) (eight 0xC9 0xC5 0xD5 0xCD 0xDD 0xD9 0xC1 0xD1 o) := by
  have hbuild := congrArg Instr.cmp (ReadOperand.rebuilt_eq o)
  cases o <;> exact { build := hbuild }

theorem laid_bit (o : BitOperand) : Laid (.bit o) (bitLayout o) := by
  cases o with
  | absolute a => exact { build := congrArg (Instr.bit ∘ BitOperand.absolute) (wordOf_lo_hi a) }
  | _ => exact {}

theorem laid_cpx (o : IndexOperand) : Laid (.cpx o) (indexLayout 0xE0 0xE4 0xEC o) := by
  cases o with
  | absolute a => exact { build := congrArg (Instr.cpx ∘ IndexOperand.absolute) (wordOf_lo_hi a) }
  | _ => exact {}

theorem laid_cpy (o : IndexOperand) : Laid (.cpy o) (indexLayout 0xC0 0xC4 0xCC o) := by
  cases o with
  | absolute a => exact { build := congrArg (Instr.cpy ∘ IndexOperand.absolute) (wordOf_lo_hi a) }
  | _ => exact {}

/-- `Laid.reads` where the statement writes the change of the state in other words than the meaning. -/
theorem Laid.reads_of_eq {i : Instr} {l : Layout} {f g : Byte → State → State} (h : Laid i l)
    (hexec : ∀ s, exec i s = perform i s (readingM i.operand f)) (hfg : ∀ m s, f m s = g m s) : Reads i l g := by
  obtain rfl : f = g := funext fun m => funext (hfg m)
  exact h.reads hexec

/-! ### Sums and differences -/

/-- Masking with 0x80 tests the sign bit. -/
theorem and_signMask_ne_zero (x : Byte) : ((x &&& 0x80#8) != 0) = x.msb := by
  revert x
  decide

theorem carry_toNat (c : Bool) : c.toNat = if c then 1 else 0 := by cases c <;> rfl

theorem borrow_toInt (c : Bool) : (1 : Int) - c.toNat = if c then 0 else 1 := by cases c <;> rfl

/-- The overflow of a sum: the operands agree in sign and the result does not. -/
theorem addOverflow_eq (a m r : Byte) :
    (((a ^^^ r) &&& (m ^^^ r) &&& 0x80#8) != 0) = decide (a.msb = m.msb ∧ r.msb ≠ a.msb) := by
  rw [and_signMask_ne_zero, BitVec.msb_and, BitVec.msb_xor, BitVec.msb_xor]
  cases a.msb <;> cases m.msb <;> cases r.msb <;> rfl

/-- The overflow of a difference: the operands differ in sign and the result's sign is not the first operand's. -/
theorem subOverflow_eq (a m r : Byte) :
    (((a ^^^ m) &&& (a ^^^ r) &&& 0x80#8) != 0) = decide (a.msb ≠ m.msb ∧ r.msb ≠ a.msb) := by
  rw [and_signMask_ne_zero, BitVec.msb_and, BitVec.msb_xor, BitVec.msb_xor]
  cases a.msb <;> cases m.msb <;> cases r.msb <;> rfl

theorem addWithCarry_eq (a m : Byte) (c : Bool) :
    addWithCarry a m c =
      let sum := a.toNat + m.toNat + (if c then 1 else 0)
      let r := BitVec.ofNat 8 sum
      ⟨r, decide (sum > 255), decide (a.msb = m.msb ∧ r.msb ≠ a.msb)⟩ := by
  simp only [addWithCarry, carry_toNat, addOverflow_eq]

theorem subWithBorrow_eq (a m : Byte) (c : Bool) :
    subWithBorrow a m c =
      let d : Int := (a.toNat : Int) - m.toNat - (if c then 0 else 1)
      let r := BitVec.ofInt 8 d
      ⟨r, decide (0 ≤ d), decide (a.msb ≠ m.msb ∧ r.msb ≠ a.msb)⟩ := by
  simp only [subWithBorrow, borrow_toInt, subOverflow_eq, ge_iff_le]

theorem xor_0xFF (m : Byte) : m ^^^ 0xFF#8 = ~~~m := BitVec.xor_allOnes

/-- R302: the sum with the complement is 256 more than the difference. -/
theorem add_complement (a m : Byte) (c : Bool) :
    ((a.toNat + (m ^^^ 0xFF#8).toNat + (if c then 1 else 0) : Nat) : Int) =
      (a.toNat : Int) - m.toNat - (if c then 0 else 1) + 256 := by
  have hm := m.isLt
  rw [xor_0xFF, BitVec.toNat_not]
  split <;> omega

/-- The difference is the sum with the complement: 256 apart, equal modulo 256 and the carry at the same place; and the operands
of a difference differ in sign where those of the sum agree. -/
theorem subWithBorrow_eq_addWithCarry (a m : Byte) (c : Bool) :
    subWithBorrow a m c = addWithCarry a (m ^^^ 0xFF#8) c := by
  rw [subWithBorrow_eq, addWithCarry_eq]
  have hsum := add_complement a m c
  dsimp only
  generalize a.toNat + (m ^^^ 0xFF#8).toNat + (if c then 1 else 0) = sum at hsum ⊢
  generalize (a.toNat : Int) - m.toNat - (if c then 0 else 1) = d at hsum ⊢
  have hr : BitVec.ofInt 8 d = BitVec.ofNat 8 sum := by
    apply BitVec.eq_of_toNat_eq
    rw [BitVec.toNat_ofInt, BitVec.toNat_ofNat]
    omega
  have hcarry : 0 ≤ d ↔ sum > 255 := by omega
  have hsign : a.msb ≠ m.msb ↔ a.msb = (m ^^^ 0xFF#8).msb := by
    rw [xor_0xFF, BitVec.msb_not]
    exact Bool.eq_not.symm
  simp only [hr, hcarry, hsign]

/-! ### Compares -/

/-- The difference is 0 exactly where register and operand are equal. -/
theorem Flags.compare_eq (f : Flags) (r m : Byte) :
    f.compare r m = { f with c := decide (m ≤ r), z := decide (r = m), n := (r - m).getLsbD 7 } := by
  have hz : ((r - m) == 0) = decide (r = m) := by
    rw [Bool.eq_iff_iff, beq_iff_eq, decide_eq_true_iff]
    exact sub_eq_zero
  rw [Flags.compare, Flags.setZN, hz]
  rfl

/-- A compare changes only C, Z and N (R307 to R309). -/
theorem applyCompare_eq (reg : Cpu → Byte) (m : Byte) (s : State) :
    applyCompare reg m s = { s with cpu := { s.cpu with
      flags := { s.cpu.flags with
        c := decide (m ≤ reg s.cpu), z := decide (reg s.cpu = m), n := (reg s.cpu - m).getLsbD 7 } } } := by
  rw [applyCompare, Flags.compare_eq]
  rfl

/-! ### The statements -/

/-- Settles O8: ADC is its row's `readingM`, with the sum and flags in the statement's words. -/
theorem adcAddsWithCarry : Obligations.AdcAddsWithCarry := by
  unfold Obligations.AdcAddsWithCarry
  refine fun o => (laid_adc o).reads_of_eq (fun _ => rfl) fun m s => ?_
  rw [applySum, addWithCarry_eq]
  rfl

/-- Settles O9: SBC is its row's `readingM`, with the difference and flags in the statement's words; and the difference is the
sum with the complement. -/
theorem sbcSubtractsWithBorrow : Obligations.SbcSubtractsWithBorrow := by
  unfold Obligations.SbcSubtractsWithBorrow
  refine ⟨fun o => (laid_sbc o).reads_of_eq (fun _ => rfl) fun m s => ?_, subWithBorrow_eq_addWithCarry⟩
  rw [applySum, subWithBorrow_eq]
  rfl

/-- Settles O10: each is its row's `readingM`, whose change of the state is the statement's. -/
theorem logicCombinesBits : Obligations.LogicCombinesBits := by
  unfold Obligations.LogicCombinesBits
  exact ⟨fun o => (laid_and o).reads fun _ => rfl, fun o => (laid_ora o).reads fun _ => rfl,
    fun o => (laid_eor o).reads fun _ => rfl⟩

/-- Settles O11: BIT's change of the state is the statement's; the compares' is `applyCompare_eq` of their register. -/
theorem bitAndComparesSetFlags : Obligations.BitAndComparesSetFlags := by
  unfold Obligations.BitAndComparesSetFlags
  exact ⟨fun o => (laid_bit o).reads fun _ => rfl,
    fun o => (laid_cmp o).reads_of_eq (fun _ => rfl) (applyCompare_eq Cpu.a),
    fun o => (laid_cpx o).reads_of_eq (fun _ => rfl) (applyCompare_eq Cpu.x),
    fun o => (laid_cpy o).reads_of_eq (fun _ => rfl) (applyCompare_eq Cpu.y)⟩

end Sys2Proof.Machine
end

section
/-! SUPPORT. The layouts of the memory increments, shifts and rotates as rows of the opcode map, what a read-modify-write does
with a laid-out instruction, the shifted bytes of 43_incdec_shift.md as numbers, and the family settled by them. -/

namespace Sys2Proof.Machine

open Sys2Proof.Claim

/-! ### Layouts and rows of the opcode map -/

/-- The operand as a row's `build` makes it from the operand's own bytes (30_encoding.md R161). -/
def ModifyOperand.rebuilt : ModifyOperand → ModifyOperand
  | .absolute a => .absolute (wordOf (Word.lo a) (Word.hi a))
  | .absoluteX a => .absoluteX (wordOf (Word.lo a) (Word.hi a))
  | o => o

theorem ModifyOperand.rebuilt_eq (o : ModifyOperand) : ModifyOperand.rebuilt o = o := by
  cases o with
  | absolute a => exact congrArg ModifyOperand.absolute (wordOf_lo_hi a)
  | absoluteX a => exact congrArg ModifyOperand.absoluteX (wordOf_lo_hi a)
  | _ => rfl

/-- The operand as a row's `build` makes it from the operand's own bytes (30_encoding.md R161). -/
def ShiftOperand.rebuilt : ShiftOperand → ShiftOperand
  | .absolute a => .absolute (wordOf (Word.lo a) (Word.hi a))
  | .absoluteX a => .absoluteX (wordOf (Word.lo a) (Word.hi a))
  | o => o

theorem ShiftOperand.rebuilt_eq (o : ShiftOperand) : ShiftOperand.rebuilt o = o := by
  cases o with
  | absolute a => exact congrArg ShiftOperand.absolute (wordOf_lo_hi a)
  | absoluteX a => exact congrArg ShiftOperand.absoluteX (wordOf_lo_hi a)
  | _ => rfl

theorem laid_inc (o : ModifyOperand) : Laid (.inc o) (modifyLayout 0xE6 0xF6 0xEE 0xFE o) := by
  have hbuild := congrArg Instr.inc (ModifyOperand.rebuilt_eq o)
  cases o <;> exact { build := hbuild }

theorem laid_dec (o : ModifyOperand) : Laid (.dec o) (modifyLayout 0xC6 0xD6 0xCE 0xDE o) := by
  have hbuild := congrArg Instr.dec (ModifyOperand.rebuilt_eq o)
  cases o <;> exact { build := hbuild }

theorem laid_asl (o : ShiftOperand) : Laid (.asl o) (shiftLayout 0x0A 0x06 0x16 0x0E 0x1E o) := by
  have hbuild := congrArg Instr.asl (ShiftOperand.rebuilt_eq o)
  cases o <;> exact { build := hbuild }

theorem laid_lsr (o : ShiftOperand) : Laid (.lsr o) (shiftLayout 0x4A 0x46 0x56 0x4E 0x5E o) := by
  have hbuild := congrArg Instr.lsr (ShiftOperand.rebuilt_eq o)
  cases o <;> exact { build := hbuild }

theorem laid_rol (o : ShiftOperand) : Laid (.rol o) (shiftLayout 0x2A 0x26 0x36 0x2E 0x3E o) := by
  have hbuild := congrArg Instr.rol (ShiftOperand.rebuilt_eq o)
  cases o <;> exact { build := hbuild }

theorem laid_ror (o : ShiftOperand) : Laid (.ror o) (shiftLayout 0x6A 0x66 0x76 0x6E 0x7E o) := by
  have hbuild := congrArg Instr.ror (ShiftOperand.rebuilt_eq o)
  cases o <;> exact { build := hbuild }

/-! ### Read-modify-write -/

/-- The DMA register reads 0 (20_memory.md R105). -/
theorem memRead_dma (s : State) : memRead 0x4014#16 s = .ok 0 s :=
  memRead_sink s (by decide) (by decide) (by decide) (by decide)

/-- What reads can be written back. `hv`: at the DMA register, which reads 0, the byte written names no page of the expansion
range, so the copy it starts cannot fault (20_memory.md R130). -/
theorem storable_of_memRead {a : Word} {m v : Byte} {s s1 : State} (hm : memRead a s = .ok m s1) (ha : s.mapped a)
    (hv : m = 0 → v.toNat < 0x40 ∨ 0x60 ≤ v.toNat) : s1.storable a v := by
  refine ⟨by rwa [State.mapped, (memRead_frame hm).cfg], fun hdma => .inr (hv ?_)⟩
  obtain rfl : a = 0x4014#16 := BitVec.eq_of_toNat_eq hdma
  rw [memRead_dma] at hm
  cases hm
  rfl

/-- `h0`: what is made of 0, the byte that the DMA register reads, names no page of the expansion range. -/
theorem Laid.modifies {i : Instr} {l : Layout} {r : Bool → Byte → Byte} {g : Flags → Byte → Flags} (h : Laid i l)
    (h0 : ∀ c, (r c 0).toNat < 0x40 ∨ 0x60 ≤ (r c 0).toNat) (hexec : ∀ s, exec i s = perform i s (modifying r g)) :
    Modifies i l r g := by
  intro s hs
  obtain ⟨m, s1, hm⟩ := memRead_ok (s := past s l i.operand) hs
  have hflags : s1.cpu.flags = s.cpu.flags := by rw [(memRead_frame hm).cpu, past]
  obtain ⟨s2, hw⟩ := memWrite_ok (storable_of_memRead (v := r s.cpu.flags.c m) hm hs fun hm0 => hm0 ▸ h0 _)
  obtain ⟨n, hn⟩ := ((memWrite_spec _ _ _).1 s2 hw).1.cpu
  have hflagsW : s2.cpu.flags = s.cpu.flags := by rw [hn, hflags]
  refine ⟨m, s1, s2, hm, hw, ?_⟩
  rw [hexec, h.perform_eq, modifying, hm, Res.andThen_ok_left, hflags, hw, Res.andThen_ok_left, hflagsW]
  rfl

/-- Settles O12: each is its row's `modifying`; at the DMA register INC writes page 0x01 and DEC page 0xFF. -/
theorem incAndDecModifyMemory : Obligations.IncAndDecModifyMemory := by
  unfold Obligations.IncAndDecModifyMemory
  exact ⟨fun o => ⟨(laid_inc o).coded, (laid_inc o).modifies (by decide) fun _ => rfl⟩,
    fun o => ⟨(laid_dec o).coded, (laid_dec o).modifies (by decide) fun _ => rfl⟩⟩

/-! ### Shifted bytes as numbers -/

theorem shl_one_eq (m : Byte) : m <<< 1 = BitVec.ofNat 8 (2 * m.toNat) := by
  apply BitVec.eq_of_toNat_eq
  rw [BitVec.toNat_shiftLeft, Nat.shiftLeft_eq, Nat.mul_comm, BitVec.toNat_ofNat]

theorem ushr_one_eq (m : Byte) : m >>> 1 = BitVec.ofNat 8 (m.toNat / 2) := by
  apply BitVec.eq_of_toNat_eq
  have hm := m.isLt
  rw [BitVec.toNat_ushiftRight, Nat.shiftRight_eq_div_pow, BitVec.toNat_ofNat]
  omega

theorem carryLow_eq (c : Bool) : (bit c).setWidth 8 = BitVec.ofNat 8 (if c then 1 else 0) := by
  cases c <;> rfl

theorem carryHigh_eq (c : Bool) : (bit c).setWidth 8 <<< 7 = BitVec.ofNat 8 (if c then 128 else 0) := by
  cases c <;> rfl

/-- Bit 0 is empty after a shift to the left. -/
theorem shl_one_and_carryLow (c : Bool) (m : Byte) : (m <<< 1) &&& (bit c).setWidth 8 = 0#8 := by
  revert c m
  decide

/-- Bit 7 is empty after a shift to the right. -/
theorem ushr_one_and_carryHigh (c : Bool) (m : Byte) : (m >>> 1) &&& ((bit c).setWidth 8 <<< 7) = 0#8 := by
  revert c m
  decide

theorem shiftLeft_eq (c : Bool) (m : Byte) : shiftLeft c m = ⟨BitVec.ofNat 8 (2 * m.toNat), m.getLsbD 7⟩ := by
  rw [shiftLeft, shl_one_eq]

theorem shiftRight_eq (c : Bool) (m : Byte) : shiftRight c m = ⟨BitVec.ofNat 8 (m.toNat / 2), m.getLsbD 0⟩ := by
  rw [shiftRight, ushr_one_eq]

/-- The carry enters at the empty end, so that the `|||` is a sum. -/
theorem rotateLeft_eq (c : Bool) (m : Byte) :
    rotateLeft c m = ⟨BitVec.ofNat 8 (2 * m.toNat + (if c then 1 else 0)), m.getLsbD 7⟩ := by
  rw [rotateLeft, ← BitVec.add_eq_or_of_and_eq_zero _ _ (shl_one_and_carryLow c m), shl_one_eq, carryLow_eq, BitVec.ofNat_add]

theorem rotateRight_eq (c : Bool) (m : Byte) :
    rotateRight c m = ⟨BitVec.ofNat 8 (m.toNat / 2 + (if c then 128 else 0)), m.getLsbD 0⟩ := by
  rw [rotateRight, ← BitVec.add_eq_or_of_and_eq_zero _ _ (ushr_one_and_carryHigh c m), ushr_one_eq, carryHigh_eq,
    BitVec.ofNat_add]

/-! ### Shifts and rotates -/

/-- `h0` as in `Laid.modifies`; `hop`: the meaning's shift in the statement's words. -/
theorem shifts_of_laid {i : ShiftOperand → Instr} {l : ShiftOperand → Layout} {op : Bool → Byte → Shifted}
    {r : Bool → Byte → Byte} {out : Byte → Bool} (hlaid : ∀ o, Laid (i o) (l o)) (hi : ∀ o, (i o).operand = o.toOperand)
    (hexec : ∀ o s, exec (i o) s = perform (i o) s (shifting op o)) (hop : ∀ c m, op c m = ⟨r c m, out m⟩)
    (h0 : ∀ c, (r c 0).toNat < 0x40 ∨ 0x60 ≤ (r c 0).toNat) : Shifts i l r out := by
  obtain rfl : op = fun c m => ⟨r c m, out m⟩ := funext fun c => funext (hop c)
  refine ⟨fun o => ⟨hi o, (hlaid o).coded⟩, fun s => ?_, fun o ho => (hlaid o).modifies h0 fun s => ?_⟩
  · rw [hexec, (hlaid _).perform_eq, hi]
    rfl
  · rw [hexec]
    cases o with
    | accumulator => exact absurd rfl ho
    | _ => rfl

/-- Settles O13: each is its row's `shifting`, with result and bit out as numbers; at the DMA register a shift writes page 0x00,
and a rotate that or the carry's page 0x01 or 0x80. -/
theorem shiftsAndRotates : Obligations.ShiftsAndRotates := by
  unfold Obligations.ShiftsAndRotates
  exact ⟨shifts_of_laid laid_asl (fun _ => rfl) (fun _ _ => rfl) shiftLeft_eq (by decide),
    shifts_of_laid laid_lsr (fun _ => rfl) (fun _ _ => rfl) shiftRight_eq (by decide),
    shifts_of_laid laid_rol (fun _ => rfl) (fun _ _ => rfl) rotateLeft_eq (by decide),
    shifts_of_laid laid_ror (fun _ => rfl) (fun _ _ => rfl) rotateRight_eq (by decide)⟩

end Sys2Proof.Machine
end

section
/-! SUPPORT. The layouts of the branches, jumps and subroutine instructions as rows of the opcode map, page tests and the pointer
read inside one page, and the family of 44_control_flow.md settled by them. -/

namespace Sys2Proof.Machine

open Sys2Proof.Claim

/-! ### Pages -/

/-- Masking with 0xFF00 keeps the page, bits 15:8, and clears the place in it. -/
theorem and_pageMask (a : Word) : a &&& 0xFF00#16 = wordOf 0 (Word.hi a) := by
  calc a &&& 0xFF00#16
      = (Word.hi a ++ Word.lo a) &&& (0xFF#8 ++ 0x00#8) := congrArg (· &&& 0xFF00#16) (wordOf_lo_hi a).symm
    _ = (Word.hi a &&& 0xFF#8) ++ (Word.lo a &&& 0x00#8) := BitVec.and_append
    _ = wordOf 0 (Word.hi a) := congrArg₂ (· ++ ·) BitVec.and_allOnes BitVec.and_zero

/-- The page test of R20 by the mask, as the branches' statement has it. -/
theorem pageDiffers_eq (a b : Word) : pageDiffers a b = !decide (a &&& 0xFF00#16 = b &&& 0xFF00#16) := by
  have hpage : a &&& 0xFF00#16 = b &&& 0xFF00#16 ↔ Word.hi a = Word.hi b := by
    rw [and_pageMask, and_pageMask]
    exact ⟨fun h => by simpa using congrArg Word.hi h, fun h => by rw [h]⟩
  simp only [pageDiffers, hpage, bne, beq_eq_decide]

/-! ### Meanings past their address resolution -/

/-- `perform` for every operand form, once its address is resolved (40_execution_addressing.md R205 steps 5 and 6). -/
theorem perform_of_resolve {i : Instr} {s t : State} {e : Effective} (h : resolve i.operand s = .ok e t)
    (handler : Word → State → Res Unit) :
    perform i s handler = (handler e.ea (advancePast i.opcode e.crossed t)).conclude i.opcode := by
  rw [perform, h, Res.andThen_ok_left]

/-- `Laid.perform_eq` for the meaning that `exec` gives the instruction. -/
theorem Laid.exec_eq {i : Instr} {l : Layout} {s : State} {handler : Word → State → Res Unit} (h : Laid i l)
    (hexec : exec i s = perform i s handler) :
    exec i s = (handler (s.ea i.operand) (past s l i.operand)).conclude i.opcode := hexec.trans (h.perform_eq s handler)

/-! ### Branches -/

/-- The taken branch charges one cycle and the page's (R390). -/
theorem takeBranch_eq (ea : Word) (s : State) :
    takeBranch ea s =
      s.withPcCycles ea (s.cpu.cycles + 1 + (if s.cpu.pc &&& 0xFF00#16 = ea &&& 0xFF00#16 then 0 else 1)) := by
  rw [takeBranch, pageDiffers_eq]
  by_cases hpage : s.cpu.pc &&& 0xFF00#16 = ea &&& 0xFF00#16
  · simp [hpage, State.addCycles, State.setPc, State.withPcCycles]
  · simp [hpage, State.addCycles, State.setPc, State.withPcCycles]

theorem Laid.branches {i : Byte → Instr} {op : Byte} {cond : Flags → Bool} (h : ∀ off, Laid (i off) ⟨op, 2, 2, 0⟩)
    (ho : ∀ off, (i off).operand = .relative off)
    (hexec : ∀ off s, exec (i off) s = perform (i off) s (branching cond)) : Branches i op cond := by
  refine fun off s => ⟨ho off, (h off).coded, ?_⟩
  rw [(h off).exec_eq (hexec off s), ho, branching, takeBranch_eq]
  rfl

/-- Settles O14: each branch is its row's `branching`, on the condition of its rule. -/
theorem branchesTestOneFlag : Obligations.BranchesTestOneFlag := by
  unfold Obligations.BranchesTestOneFlag
  refine ⟨?bcc, ?bcs, ?beq, ?bmi, ?bne, ?bpl, ?bvc, ?bvs⟩
  all_goals exact Laid.branches (fun _ => {}) (fun _ => rfl) fun _ _ => rfl

/-! ### Jumps -/

theorem exec_jmp (o : JumpOperand) (s : State) :
    exec (.jmp o) s = perform (.jmp o) s fun ea s' => .ok () (s'.setPc ea) := rfl

theorem laid_jmp_absolute (addr : Word) : Laid (.jmp (.absolute addr)) ⟨0x4C, 3, 3, 0⟩ :=
  { build := congrArg (Instr.jmp ∘ JumpOperand.absolute) (wordOf_lo_hi addr) }

/-- `Laid` leaves the indirect jump out, so its row is read here. -/
theorem coded_jmp_indirect (ptr : Word) : Coded (.jmp (.indirect ptr)) ⟨0x6C, 3, 5, 0⟩ := fun _ =>
  congrArg (Except.ok ∘ Instr.jmp ∘ JumpOperand.indirect) (wordOf_lo_hi ptr)

/-- The pointer read of R111 answers where its two addresses are mapped. -/
theorem memReadPage_ok {a : Word} {s : State} (hlo : s.mapped a) (hhi : s.mapped (nextInPage a)) :
    ∃ lo s1 hi s2, memRead a s = .ok lo s1 ∧ memRead (nextInPage a) s1 = .ok hi s2 ∧
      memReadPage a s = .ok (wordOf lo hi) s2 := by
  obtain ⟨lo, s1, h1⟩ := memRead_ok hlo
  have hhi1 : s1.mapped (nextInPage a) := by rwa [State.mapped, (memRead_frame h1).cfg]
  obtain ⟨hi, s2, h2⟩ := memRead_ok hhi1
  refine ⟨lo, s1, hi, s2, h1, h2, ?_⟩
  rw [memReadPage, h1, Res.andThen_ok_left, h2, Res.andThen_ok_left]

/-- The indirect jump goes to the word its pointer read answers (R214, R399). -/
theorem exec_jmp_indirect {ptr target : Word} {s t : State} (h : memReadPage ptr s = .ok target t) :
    exec (.jmp (.indirect ptr)) s = .next (t.withPcCycles target (s.cpu.cycles + 5)) := by
  have hcpu : t.cpu = s.cpu := (memReadPage_frame h).cpu
  have hresolve : resolve (.indirect ptr) s = .ok ⟨target, false⟩ t := by rw [resolve, h, Res.andThen_ok_left]
  rw [← hcpu]
  exact (exec_jmp _ s).trans (perform_of_resolve (i := .jmp (.indirect ptr)) hresolve _)

/-- Settles O15: the absolute jump by its row, the indirect one by the pointer read, which leaves the processor alone. -/
theorem jumpsGoToTheTarget : Obligations.JumpsGoToTheTarget := by
  unfold Obligations.JumpsGoToTheTarget
  refine ⟨fun addr s => ⟨(laid_jmp_absolute addr).coded, (laid_jmp_absolute addr).exec_eq (exec_jmp _ s)⟩,
    fun ptr s => ⟨coded_jmp_indirect ptr, fun hlo hhi => ?_⟩⟩
  obtain ⟨lo, s1, hi, s2, h1, h2, hpage⟩ := memReadPage_ok hlo hhi
  exact ⟨lo, s1, hi, s2, h1, h2, exec_jmp_indirect hpage⟩

/-! ### Subroutines -/

theorem exec_jsr (addr : Word) (s : State) :
    exec (.jsr addr) s = perform (.jsr addr) s fun ea s' => .ok () ((s'.push16 (s'.cpu.pc - 1)).setPc ea) := rfl

theorem exec_rts (s : State) :
    exec .rts s = perform .rts s (changing fun s' => s'.afterPull16.setPc (s'.pulledWord + 1)) := rfl

theorem laid_jsr (addr : Word) : Laid (.jsr addr) ⟨0x20, 3, 6, 0⟩ :=
  { build := congrArg Instr.jsr (wordOf_lo_hi addr) }

theorem laid_rts : Laid .rts ⟨0x60, 1, 6, 0⟩ := {}

/-- `Push16` writes the two slots from the stack pointer down, high byte first (R40). -/
theorem State.push16_eq (s : State) (w : Word) :
    s.push16 w = { s with
      ram := Sparse.write (Sparse.write s.ram (slot s.cpu.sp) (Word.hi w)) (slot (s.cpu.sp - 1)) (Word.lo w)
      cpu := { s.cpu with sp := s.cpu.sp - 2 } } := by
  have hsp : s.cpu.sp - 1 - 1 = s.cpu.sp - 2 := sub_sub ..
  rw [State.push16, State.push_eq, State.push_eq, hsp]

/-- `Pull16` reads the two slots above the stack pointer, low byte first (R40). -/
theorem State.pulledWord_eq (s : State) :
    s.pulledWord = wordOf (Sparse.read s.ram (slot (s.cpu.sp + 1))) (Sparse.read s.ram (slot (s.cpu.sp + 2))) := by
  have hsp : s.cpu.sp + 1 + 1 = s.cpu.sp + 2 := add_assoc ..
  rw [State.pulledWord, State.pulledByte_eq, State.pulledByte_eq, State.afterPull_cpu, State.afterPull_ram, hsp]

theorem State.afterPull16_eq (s : State) : s.afterPull16 = s.setSp (s.cpu.sp + 2) := by
  have hsp : s.cpu.sp + 1 + 1 = s.cpu.sp + 2 := add_assoc ..
  rw [← hsp]
  rfl

/-- Settles O16: JSR pushes the program counter past it less one; RTS is its row's `changing`, by what a pull of a word gives. -/
theorem subroutineCallAndReturn : Obligations.SubroutineCallAndReturn := by
  unfold Obligations.SubroutineCallAndReturn
  refine ⟨fun addr s => ⟨(laid_jsr addr).coded, ?jsr⟩, fun s => ⟨laid_rts.coded, ?rts⟩⟩
  case jsr =>
    have hlast : s.cpu.pc + 3 - 1 = s.cpu.pc + 2 := add_sub_assoc ..
    rw [(laid_jsr addr).exec_eq (exec_jsr addr s), State.push16_eq, ← hlast]
    rfl
  case rts =>
    rw [laid_rts.exec_eq (exec_rts s), changing, State.afterPull16_eq, State.pulledWord_eq]
    rfl

end Sys2Proof.Machine
end

section
/-! SUPPORT. What an exception's entry and return do to the state, part by part (60_exceptions.md R505,
45_stack_flags_system.md R442), and the family of 45_stack_flags_system.md settled by it. -/

namespace Sys2Proof.Machine

open Sys2Proof.Claim

/-! ### Push, pull and flag instructions -/

/-- `Laid.implied` where the meaning's change of the state is the statement's only after the rules of the stack. -/
theorem Laid.implied_of_eq {i : Instr} {l : Layout} {f g : State → State} (h : Laid i l) (ho : i.operand = .implied)
    (hexec : ∀ s, exec i s = perform i s (changing f)) (hfg : ∀ s, f s = g s) : Implied i l g := by
  rw [← funext hfg]
  exact h.implied ho hexec

/-- Settles O17: the pushes by the rule of a push, the pulls by that of the pulled byte; the flags by their definitions. -/
theorem pushesAndPulls : Obligations.PushesAndPulls := by
  unfold Obligations.PushesAndPulls
  refine ⟨?pha, ?php, ?pla, ?plp⟩
  case pha => exact Laid.implied_of_eq {} rfl (fun _ => rfl) fun p => p.push_eq p.cpu.a
  case php => exact Laid.implied_of_eq {} rfl (fun _ => rfl) fun p => p.push_eq p.cpu.flags.pushed
  case pla => exact Laid.implied_of_eq {} rfl (fun _ => rfl) fun p => congrArg (loadA · p.afterPull) p.pulledByte_eq
  case plp =>
    exact Laid.implied_of_eq {} rfl (fun _ => rfl) fun p =>
      congrArg (fun b => p.afterPull.setFlags (Flags.pulled b)) p.pulledByte_eq

/-- Settles O19: each is its row's `changing`, whose change of the state is the statement's. -/
theorem flagInstructionsAndNop : Obligations.FlagInstructionsAndNop := by
  unfold Obligations.FlagInstructionsAndNop
  refine ⟨?clc, ?cld, ?cli, ?clv, ?sec, ?sed, ?sei, ?nop⟩
  all_goals exact Laid.implied {} rfl fun _ => rfl

/-! ### Exceptions -/

/-- Taking an exception, part by part (R505): three stack slots, the stack pointer, I and the program counter. -/
theorem takeException_eq (vec : Word) (s : State) :
    takeException vec s = { s with
      ram := exceptionRam s.ram s.cpu.sp s.cpu.pc s.cpu.flags.pushed
      cpu := { s.cpu with
        sp := s.cpu.sp - 3, flags := { s.cpu.flags with i := true }, pc := readVector vec s } } := by
  have hsp : s.cpu.sp - 2 - 1 = s.cpu.sp - 3 := sub_sub ..
  rw [takeException, State.push16_eq, State.push_eq, hsp]
  rfl

/-- The return from an exception, part by part (R442): flags from the first pulled byte, program counter from the next two. -/
theorem returnFromException_eq (s : State) :
    returnFromException s = { s with
      cpu := { s.cpu with
        sp := s.cpu.sp + 3
        pc := wordOf (Sparse.read s.ram (slot (s.cpu.sp + 2))) (Sparse.read s.ram (slot (s.cpu.sp + 3)))
        flags := Flags.pulled (Sparse.read s.ram (slot (s.cpu.sp + 1))) } } := by
  have hlo : s.cpu.sp + 1 + 1 = s.cpu.sp + 2 := add_assoc ..
  have hhi : s.cpu.sp + 1 + 2 = s.cpu.sp + 3 := add_assoc ..
  rw [returnFromException, State.afterPull16_eq, State.pulledWord_eq, State.pulledByte_eq, ← hlo, ← hhi]
  rfl

theorem exec_brk (s : State) : exec .brk s = perform .brk s (changing (takeException irqVector)) := rfl

theorem exec_rti (s : State) : exec .rti s = perform .rti s (changing returnFromException) := rfl

/-- BRK is two bytes long though its second is no operand byte (R166, R441). -/
theorem laid_brk : Laid .brk ⟨0x00, 2, 7, 0⟩ := {}

theorem laid_rti : Laid .rti ⟨0x40, 1, 6, 0⟩ := {}

/-- Settles O20: BRK is its row's `changing`, by what taking an exception does; the vector is read through the bus. -/
theorem brkTakesTheException : Obligations.BrkTakesTheException := by
  unfold Obligations.BrkTakesTheException
  refine ⟨fun pad rest => laid_brk.coded (pad :: rest), fun s => ⟨readVector irqVector s, ?vector, ?entry⟩⟩
  case vector => exact readVector_eq_memRead16 (by decide) (by decide) s
  case entry =>
    rw [laid_brk.exec_eq (exec_brk s), changing, takeException_eq]
    rfl

/-- Settles O21: RTI is its row's `changing`, by what the return from an exception does. -/
theorem rtiReturnsFromException : Obligations.RtiReturnsFromException := by
  unfold Obligations.RtiReturnsFromException
  refine ⟨laid_rti.coded, fun s => ?_⟩
  rw [laid_rti.exec_eq (exec_rti s), changing, returnFromException_eq]
  rfl

end Sys2Proof.Machine
end

section
/-! SUPPORT. The interrupt service and the interrupt requests by the latch, the mask and I, and the family of
60_exceptions.md settled by it (R503, R504, R505). -/

namespace Sys2Proof.Machine

open Sys2Proof.Claim

/-! ### The interrupt service -/

theorem pendingVector_nmi {s : State} (h : s.cpu.latch = .nmi) : pendingVector s = some nmiVector := by
  rw [pendingVector, h]

theorem pendingVector_irq {s : State} (h : s.cpu.latch = .irq) :
    pendingVector s =
      if s.cfg.irqMaskAt = .request ∨ s.cpu.flags.i = false then some irqVector else none := by
  rw [pendingVector, h]

theorem pendingVector_none {s : State} (h : s.cpu.latch = .none) : pendingVector s = none := by
  rw [pendingVector, h]

theorem serviceInterrupt_of_pending {s : State} {vec : Word} (h : pendingVector s = some vec) :
    serviceInterrupt s = enterInterrupt vec s := by
  rw [serviceInterrupt, h]

theorem serviceInterrupt_of_not_pending {s : State} (h : pendingVector s = none) : serviceInterrupt s = s := by
  rw [serviceInterrupt, h]

/-- An interrupt entry, part by part (R505): what taking the exception changes, 7 cycles more and the latch cleared. -/
theorem enterInterrupt_eq (vec : Word) (s : State) :
    enterInterrupt vec s = { s with
      ram := exceptionRam s.ram s.cpu.sp s.cpu.pc s.cpu.flags.pushed
      cpu := { s.cpu with
        sp := s.cpu.sp - 3, flags := { s.cpu.flags with i := true }, pc := readVector vec s
        cycles := s.cpu.cycles + 7, latch := .none } } := by
  rw [enterInterrupt, takeException_eq]
  rfl

theorem cpuStep_of_not_stalled {s : State} (h : s.cpu.stall = 0) : cpuStep s = fetchAndExecute (serviceInterrupt s) :=
  if_neg (by omega)

/-- Settles O27: the latch, the mask and I say which vector is pending; an entry is taking the exception through it, and the
vector is read through the bus. -/
theorem interruptServiceEntersHandler : Obligations.InterruptServiceEntersHandler := by
  unfold Obligations.InterruptServiceEntersHandler
  intro s entered
  have enters {vec : Word} (hlo : 0x8000 ≤ vec.toNat) (hhi : vec.toNat < 0xFFFF) (h : pendingVector s = some vec) :
      ∃ target, entered vec target :=
    ⟨readVector vec s, readVector_eq_memRead16 hlo hhi s, (serviceInterrupt_of_pending h).trans (enterInterrupt_eq vec s)⟩
  refine ⟨fun hnmi => ?nmi, fun hirq hopen => ?irq, fun hirq hmask hi => ?masked, fun hnone => ?none,
    cpuStep_of_not_stalled⟩
  case nmi => exact enters (by decide) (by decide) (pendingVector_nmi hnmi)
  case irq => exact enters (by decide) (by decide) ((pendingVector_irq hirq).trans (if_pos hopen))
  case masked =>
    have hclosed : ¬ (s.cfg.irqMaskAt = .request ∨ s.cpu.flags.i = false) := by simp [hmask, hi]
    exact serviceInterrupt_of_not_pending ((pendingVector_irq hirq).trans (if_neg hclosed))
  case none => exact serviceInterrupt_of_not_pending (pendingVector_none hnone)

/-! ### The interrupt requests -/

theorem irqAccepted_iff (s : State) :
    irqAccepted s = true ↔ s.cpu.latch ≠ .nmi ∧ (s.cfg.irqMaskAt = .service ∨ s.cpu.flags.i = false) := by
  simp [irqAccepted]

theorem requestIrq_of_accepted {s : State} (h : irqAccepted s = true) :
    requestIrq s = { s with cpu := { s.cpu with latch := .irq } } := if_pos h

theorem requestIrq_of_not_accepted {s : State} (h : ¬ irqAccepted s = true) : requestIrq s = s := if_neg h

/-- Settles O28: an NMI request by its definition; an IRQ request by what makes the latch accept it. -/
theorem interruptRequestsSetTheLatch : Obligations.InterruptRequestsSetTheLatch := by
  unfold Obligations.InterruptRequestsSetTheLatch
  refine fun s => ⟨rfl, fun hnmi => ?pendingNmi, fun _ hmask hi => ?masked, fun hnmi hopen => ?accepted⟩
  case pendingNmi => exact requestIrq_of_not_accepted fun h => ((irqAccepted_iff s).mp h).1 hnmi
  case masked => exact requestIrq_of_not_accepted fun h => by simp [irqAccepted_iff, hmask, hi] at h
  case accepted => exact requestIrq_of_accepted ((irqAccepted_iff s).mpr ⟨hnmi, hopen⟩)

end Sys2Proof.Machine
end

section
/-! SUPPORT. What a write or a read of each picture register does (61_ppu.md R561 to R568), the bits of t among it, and the raster
of a picture step (R551); the family of 61_ppu.md settled by them. -/

namespace Sys2Proof.Machine

/-! ### Register writes -/

theorem PpuCtrl.ofByte_nmiOutput (b : Byte) : (PpuCtrl.ofByte b).nmiOutput = b.getLsbD 7 := by
  rw [PpuCtrl.ofByte_eq]

theorem Ppu.writeCtrl_t_getLsbD (d : Nat) (p : Ppu) (b : Byte) {k : Nat} (hk : k < 15) :
    (p.writeCtrl d b).t.getLsbD k =
      if k = 10 then b.getLsbD 0 else if k = 11 then b.getLsbD 1 else p.t.getLsbD k := by
  unfold Ppu.writeCtrl
  interval_cases k <;> simp

theorem Ppu.writeCtrl_nmiPrevious (d : Nat) (p : Ppu) (b : Byte) :
    (p.writeCtrl d b).nmiPrevious = (b.getLsbD 7 && p.vblank) := by
  rw [← PpuCtrl.ofByte_nmiOutput]
  rfl

/-- A rising edge of the line arms the countdown (R591). -/
theorem Ppu.writeCtrl_nmiDelay (d : Nat) (p : Ppu) (b : Byte) :
    (p.writeCtrl d b).nmiDelay =
      if b.getLsbD 7 = true ∧ p.vblank = true ∧ p.nmiPrevious = false then d else p.nmiDelay := by
  simp [Ppu.writeCtrl, Ppu.nmiChange, Ppu.nmiLine, PpuCtrl.ofByte_nmiOutput, and_assoc]

theorem Ppu.writeScroll_frame (p : Ppu) (b : Byte) :
    p.writeScroll b = { p with
      t := (p.writeScroll b).t, fineX := if p.w = false then b.extractLsb' 0 3 else p.fineX, w := !p.w } := by
  cases hw : p.w <;> simp [Ppu.writeScroll, hw]

/-- The first write puts coarse X into t, the second coarse and fine Y (R565). -/
theorem Ppu.writeScroll_t_getLsbD (p : Ppu) (b : Byte) {k : Nat} (hk : k < 15) :
    (p.writeScroll b).t.getLsbD k =
      if p.w = false then (if k < 5 then b.getLsbD (k + 3) else p.t.getLsbD k)
      else if 12 ≤ k then b.getLsbD (k - 12) else if 5 ≤ k ∧ k < 10 then b.getLsbD (k - 2) else p.t.getLsbD k := by
  cases hw : p.w
  all_goals
    simp only [Ppu.writeScroll, hw]
    interval_cases k <;> simp

theorem Ppu.writeAddr_frame (p : Ppu) (b : Byte) :
    p.writeAddr b = { p with
      t := (p.writeAddr b).t, v := if p.w = false then p.v else (p.writeAddr b).t, w := !p.w } := by
  cases hw : p.w <;> simp [Ppu.writeAddr, hw]

/-- The first write puts the high six bits into t and clears t[14], the second the low byte (R566). -/
theorem Ppu.writeAddr_t_getLsbD (p : Ppu) (b : Byte) {k : Nat} (hk : k < 15) :
    (p.writeAddr b).t.getLsbD k =
      if p.w = false then (if k < 8 then p.t.getLsbD k else if k < 14 then b.getLsbD (k - 8) else false)
      else if k < 8 then b.getLsbD k else p.t.getLsbD k := by
  cases hw : p.w
  all_goals
    simp only [Ppu.writeAddr, hw]
    interval_cases k <;> simp

/-- Settles O38: each register's rule, on the picture unit that has the byte in `last_write`. -/
theorem pictureRegisterWrites : Obligations.PictureRegisterWrites := by
  unfold Obligations.PictureRegisterWrites
  refine ⟨fun b s => ⟨⟨_, rfl, rfl, PpuCtrl.ofByte_eq b, fun k hk => Ppu.writeCtrl_t_getLsbD _ _ b hk,
    Ppu.writeCtrl_nmiPrevious _ _ b, Ppu.writeCtrl_nmiDelay _ _ b, rfl⟩, ?mask, rfl, rfl, rfl⟩,
    fun b s => ⟨⟨Ppu.writeScroll { s.ppu with lastWrite := b } b, rfl, ?scroll⟩,
      ⟨Ppu.writeAddr { s.ppu with lastWrite := b } b, rfl, ?addr⟩⟩⟩
  case mask =>
    exact congrArg (fun m => { s with ppu := { s.ppu with lastWrite := b, mask := m } }) (PpuMask.ofByte_eq b)
  case scroll =>
    rw [Ppu.writeScroll_frame]
    exact ⟨rfl, rfl, rfl, fun k hk => Ppu.writeScroll_t_getLsbD _ b hk, rfl⟩
  case addr =>
    rw [Ppu.writeAddr_frame]
    exact ⟨rfl, rfl, fun k hk => Ppu.writeAddr_t_getLsbD _ b hk, rfl⟩

/-! ### Register reads and the data port -/

/-- A bit on top of `w` others counts `2 ^ w`. -/
theorem toNat_ofBool_append {w : Nat} (c : Bool) (x : BitVec w) :
    (BitVec.ofBool c ++ x).toNat = 2 ^ w * c.toNat + x.toNat := by
  rw [BitVec.toNat_append, ← Nat.shiftLeft_add_eq_or_of_lt x.isLt, Nat.shiftLeft_eq, BitVec.toNat_ofBool, mul_comm]

/-- The status byte as a sum: the flags over the low five bits of `last_write` (R563). -/
theorem Ppu.statusByte_toNat (p : Ppu) :
    p.statusByte.toNat = p.lastWrite.toNat % 32 + 32 * p.spriteOverflow.toNat + 64 * p.sprite0Hit.toNat +
      128 * p.vblank.toNat := by
  have hlow : (p.lastWrite.extractLsb' 0 5).toNat = p.lastWrite.toNat % 32 := by simp
  rw [Ppu.statusByte_eq, toNat_ofBool_append, toNat_ofBool_append, toNat_ofBool_append, hlow]
  omega

/-- With vblank cleared the NMI line is down, so a status read arms nothing (R563, R591). -/
theorem Ppu.afterStatusRead_eq (d : Nat) (p : Ppu) :
    p.afterStatusRead d = { p with vblank := false, nmiPrevious := false, w := false } := by
  simp [Ppu.afterStatusRead, Ppu.nmiChange, Ppu.nmiLine]

theorem ppuDataRead_buffered (s : State) (h : s.ppu.v.toNat % 0x4000 < 0x3F00) :
    ppuDataRead s = (s.ppu.readBuffer,
      { s with ppu := { s.ppu with readBuffer := ppuRead s s.ppu.v.toNat, v := s.ppu.stepAddress.v } }) := by
  simp only [ppuDataRead, Ppu.stepAddress, decide_eq_true h, if_true]

theorem ppuDataRead_palette (s : State) (h : 0x3F00 ≤ s.ppu.v.toNat % 0x4000) :
    ppuDataRead s = (ppuRead s s.ppu.v.toNat,
      { s with ppu := { s.ppu with readBuffer := ppuRead s (s.ppu.v.toNat - 0x1000), v := s.ppu.stepAddress.v } }) := by
  simp only [ppuDataRead, Ppu.stepAddress, decide_eq_false (Nat.not_lt.mpr h), Bool.false_eq_true, if_false]

/-- A picture-space write leaves v and the increment, so the address steps from where it was (R567). -/
theorem ppuWrite_stepAddress (s : State) (a : Nat) (b : Byte) :
    (ppuWrite s a b).ppu.stepAddress = { (ppuWrite s a b).ppu with v := s.ppu.stepAddress.v } := by
  obtain ⟨-, -, -, -, -, -, -, -, -, -, nt, pal, hppu⟩ := ppuWrite_frame s a b
  rw [hppu]
  rfl

theorem ppuDataWrite_eq (s : State) (b : Byte) :
    ppuDataWrite s b = { ppuWrite s s.ppu.v.toNat b with
      ppu := { (ppuWrite s s.ppu.v.toNat b).ppu with v := s.ppu.stepAddress.v } } := by
  rw [← ppuWrite_stepAddress]
  rfl

/-- Settles O39: the status read as a sum and by its NMI line; the data port by the side of the palette that v is on. -/
theorem pictureRegisterReadsAndDataPort : Obligations.PictureRegisterReadsAndDataPort := by
  unfold Obligations.PictureRegisterReadsAndDataPort
  refine ⟨fun s => ⟨s.ppu.statusByte_toNat, ?status, rfl, ?writeOnly⟩,
    fun b s => ⟨ppuDataRead_buffered s, ppuDataRead_palette s, ?dataWrite⟩⟩
  case status => exact congrArg (fun p => { s with ppu := p }) (s.ppu.afterStatusRead_eq s.cfg.nmiDelay)
  case writeOnly => rintro r (rfl | rfl | rfl | rfl | rfl) <;> rfl
  case dataWrite => exact ppuDataWrite_eq { s with ppu := { s.ppu with lastWrite := b } } b

/-! ### The raster of a picture step -/

/-- The raster: the dot, the line, the frame counter and the frame's parity (10_state.md R60). -/
def Ppu.raster (p : Ppu) : Nat × Nat × Nat × Bool := (p.dot, p.scanline, p.frame, p.f)

/-- Where the odd-frame skip is taken (R551). -/
def Ppu.AtSkip (p : Ppu) : Prop := p.rendering = true ∧ p.f = true ∧ p.scanline = 261 ∧ p.dot = 339

theorem Ppu.advance_of_skip {p : Ppu} (h : p.AtSkip) : p.advance = p.nextFrame := by
  obtain ⟨hr, hf, hl, hd⟩ := h
  simp [Ppu.advance, hr, hf, hl, hd]

/-- Away from the skip, `Advance()` is the walk over 341 dots and 262 lines (R551). -/
theorem Ppu.advance_of_not_skip {p : Ppu} (h : ¬ p.AtSkip) :
    p.advance =
      if p.dot < 340 then { p with dot := p.dot + 1 }
      else if p.scanline < 261 then { p with dot := 0, scanline := p.scanline + 1 }
      else p.nextFrame := by
  have hskip : (p.rendering && p.f && decide (p.scanline = 261) && decide (p.dot = 339)) ≠ true := by
    simpa [Ppu.AtSkip, and_assoc] using h
  rw [Ppu.advance, if_neg hskip]
  rfl

theorem Ppu.not_atSkip_of_dot_ge {p : Ppu} (h : 340 ≤ p.dot) : ¬ p.AtSkip := fun ⟨_, _, _, hd⟩ => by omega

theorem Ppu.advance_within_line {p : Ppu} (hskip : ¬ p.AtSkip) (hdot : p.dot < 340) :
    p.advance = { p with dot := p.dot + 1 } :=
  (Ppu.advance_of_not_skip hskip).trans (if_pos hdot)

theorem Ppu.advance_at_line_end {p : Ppu} (hdot : 340 ≤ p.dot) (hline : p.scanline < 261) :
    p.advance = { p with dot := 0, scanline := p.scanline + 1 } := by
  rw [Ppu.advance_of_not_skip (Ppu.not_atSkip_of_dot_ge hdot), if_neg (by omega), if_pos hline]

theorem Ppu.advance_at_frame_end {p : Ppu} (hdot : 340 ≤ p.dot) (hline : 261 ≤ p.scanline) : p.advance = p.nextFrame := by
  rw [Ppu.advance_of_not_skip (Ppu.not_atSkip_of_dot_ge hdot), if_neg (by omega), if_neg (by omega)]

/-- The NMI countdown counts in the picture unit, and nothing else of the unit changes (R594). -/
theorem nmiCountdown_ppu (s : State) : (nmiCountdown s).ppu = { s.ppu with nmiDelay := s.ppu.nmiDelay - 1 } := by
  unfold nmiCountdown
  split
  case h_1 h =>
    have hstays : s.ppu.nmiDelay - 1 = s.ppu.nmiDelay := by omega
    rw [hstays]
  case h_2 n h =>
    dsimp only
    rw [h]
    split <;> rfl

/-- `Advance()` does not look at the NMI countdown. -/
theorem Ppu.advance_nmiDelay (p : Ppu) (n : Nat) :
    Ppu.advance { p with nmiDelay := n } = { p.advance with nmiDelay := n } := by
  by_cases hskip : p.AtSkip
  · rw [Ppu.advance_of_skip hskip]
    exact Ppu.advance_of_skip hskip
  · have hskip' : ¬ Ppu.AtSkip { p with nmiDelay := n } := hskip
    rw [Ppu.advance_of_not_skip hskip, Ppu.advance_of_not_skip hskip']
    split_ifs <;> rfl

theorem renderingActions_raster (s : State) : (renderingActions s).ppu.raster = s.ppu.raster := by
  unfold renderingActions
  split
  · obtain ⟨hit, back, hrender⟩ := renderVisible_frame s
    obtain ⟨nt, at', lo, hi, shift, hfetch⟩ := fetchCycle_frame (renderVisible s)
    dsimp only
    obtain ⟨count, slots, ovf, hsprite⟩ :=
      spriteCycle_frame { fetchCycle (renderVisible s) with ppu := (fetchCycle (renderVisible s)).ppu.scrollCycle }
    rw [hsprite, hfetch, hrender]
    rfl
  · rfl

theorem vblankActions_raster (s : State) : (vblankActions s).ppu.raster = s.ppu.raster := by
  obtain ⟨vb, hit, ovf, front, back, prev, delay, h⟩ := vblankActions_frame s
  rw [h]
  rfl

/-- The raster of a picture step is that of `Advance()`: no other part of the step moves it (R554). -/
theorem ppuStep_raster (s : State) : (ppuStep s).ppu.raster = s.ppu.advance.raster := by
  rw [ppuStep, vblankActions_raster, renderingActions_raster, advanceRaster, nmiCountdown_ppu,
    Ppu.advance_nmiDelay]
  rfl

/-- Settles O42: a picture step's raster is that of `Advance()`, at the skip and away from it. -/
theorem rasterAdvances : Obligations.RasterAdvances := by
  unfold Obligations.RasterAdvances
  intro s q skip wraps
  have hraster {p : Ppu} (h : s.ppu.advance = p) :
      q.dot = p.dot ∧ q.scanline = p.scanline ∧ q.frame = p.frame ∧ q.f = p.f := by
    simpa [Ppu.raster, h] using ppuStep_raster s
  refine ⟨?frame, fun hskip hdot => hraster (Ppu.advance_within_line hskip hdot),
    fun hdot hline => hraster (Ppu.advance_at_line_end hdot hline)⟩
  case frame =>
    rintro (hskip | ⟨hdot, hline⟩)
    · exact hraster (Ppu.advance_of_skip hskip)
    · exact hraster (Ppu.advance_at_frame_end hdot hline)

end Sys2Proof.Machine
end

section
/-! SUPPORT. The mapper variants: where each window reads its array, the register writes of each variant as equations, and the
scanline counter; the family of 62_mappers.md settled by them (R652 to R698). -/

namespace Sys2Proof.Machine

/-! ### The windows -/

theorem Cartridge.read_pattern (c : Cartridge) {a : Nat} (h : a < 0x2000) : c.read a = some (c.chrRead a) := if_pos h

theorem Cartridge.write_pattern (c : Cartridge) {a : Nat} (v : Byte) (h : a < 0x2000) : c.write a v = some (c.chrWrite a v) :=
  if_pos h

/-- A window of a banked variant shows its array from the window's offset on (R676, R698). -/
theorem vector_window {n size o : Nat} (offs : Vector Nat n) (i : Fin n) (ho : o < size) :
    offs[(size * i + o) / size]?.getD 0 + (size * i + o) % size = offs[i] + o := by
  have hwindow : (size * i + o) / size = i := by
    rw [Nat.mul_add_div (by omega), Nat.div_eq_of_lt ho, Nat.add_zero]
  rw [hwindow, Nat.mul_add_mod, Nat.mod_eq_of_lt ho, Vector.getElem?_eq_getElem i.isLt]
  rfl

theorem Cartridge.chrAddr_fixedChr {c : Cartridge} {st : FixedChr} (hm : c.mapper = .fixedChr st) (a : Nat) :
    c.chrAddr a = (st.chrBank.toNat % (c.chr.len / 0x2000)) * 0x2000 + a := by
  rw [Cartridge.chrAddr, hm]

theorem Cartridge.prgAddr_fixedChr {c : Cartridge} {st : FixedChr} (hm : c.mapper = .fixedChr st) (a : Nat) :
    c.prgAddr a = if a < 0xC000 then a - 0x8000 else (c.prg.len / 0x4000 - 1) * 0x4000 + (a - 0xC000) := by
  rw [Cartridge.prgAddr, hm]

theorem Cartridge.chrAddr_shiftReg {c : Cartridge} {st : ShiftReg} (hm : c.mapper = .shiftReg st) (i : Fin 2) {o : Nat}
    (ho : o < 0x1000) : c.chrAddr (0x1000 * i + o) = st.chrOff[i] + o := by
  rw [Cartridge.chrAddr, hm]
  exact vector_window st.chrOff i ho

theorem Cartridge.prgAddr_shiftReg {c : Cartridge} {st : ShiftReg} (hm : c.mapper = .shiftReg st) (i : Fin 2) {o : Nat}
    (ho : o < 0x4000) : c.prgAddr (0x8000 + 0x4000 * i + o) = st.prgOff[i] + o := by
  rw [Cartridge.prgAddr, hm, Nat.add_assoc, Nat.add_sub_cancel_left]
  exact vector_window st.prgOff i ho

theorem Cartridge.chrAddr_scanlineIrq {c : Cartridge} {st : ScanlineIrq} (hm : c.mapper = .scanlineIrq st) (i : Fin 8) {o : Nat}
    (ho : o < 0x400) : c.chrAddr (0x400 * i + o) = st.chrOff[i] + o := by
  rw [Cartridge.chrAddr, hm]
  exact vector_window st.chrOff i ho

theorem Cartridge.prgAddr_scanlineIrq {c : Cartridge} {st : ScanlineIrq} (hm : c.mapper = .scanlineIrq st) (i : Fin 4) {o : Nat}
    (ho : o < 0x2000) : c.prgAddr (0x8000 + 0x2000 * i + o) = st.prgOff[i] + o := by
  rw [Cartridge.prgAddr, hm, Nat.add_assoc, Nat.add_sub_cancel_left]
  exact vector_window st.prgOff i ho

/-! ### The register writes of each variant -/

theorem Cartridge.registerWrite_fixedChr {c : Cartridge} {st : FixedChr} (hm : c.mapper = .fixedChr st) (a : Nat) (v : Byte) :
    c.registerWrite a v = { c with mapper := .fixedChr ⟨v.extractLsb' 0 2⟩ } := by
  rw [Cartridge.registerWrite, hm]

theorem Cartridge.registerWrite_shiftReg {c : Cartridge} {st : ShiftReg} (hm : c.mapper = .shiftReg st) (a : Nat) (v : Byte) :
    c.registerWrite a v = c.shiftWrite st a v := by
  rw [Cartridge.registerWrite, hm]

theorem Cartridge.registerWrite_scanlineIrq {c : Cartridge} {st : ScanlineIrq} (hm : c.mapper = .scanlineIrq st) (a : Nat)
    (v : Byte) : c.registerWrite a v = { c with
      mapper := .scanlineIrq ((st.writeRegister a v).updateOffsets c.prg.len c.chr.len)
      mirror := scanlineMirror c.mirror a v } := by
  rw [Cartridge.registerWrite, hm]

/-- Settles O51: the two program windows by the side of 0xC000, and the register write of the variant. -/
theorem fixedChrWindows : Obligations.FixedChrWindows := by
  unfold Obligations.FixedChrWindows
  refine fun c st hm => ⟨fun a hlo hhi => ?first, fun a hlo _ => ?last, fun a ha => ?pattern, fun a v hlo => ?register⟩
  case first => rw [c.read_prg hlo, Cartridge.prgRead, Cartridge.prgAddr_fixedChr hm, if_pos hhi]
  case last => rw [c.read_prg (by omega), Cartridge.prgRead, Cartridge.prgAddr_fixedChr hm, if_neg (by omega)]
  case pattern => rw [c.read_pattern ha, Cartridge.chrRead, Cartridge.chrAddr_fixedChr hm]
  case register => rw [c.write_register v hlo, Cartridge.registerWrite_fixedChr hm]

/-- Settles O52: the ranges by the cases of the mapper's accesses, the windows by the address of each banked variant. -/
theorem mapperWindowsAreRead : Obligations.MapperWindowsAreRead := by
  unfold Obligations.MapperWindowsAreRead
  refine fun c v => ⟨fun a hlo hhi => ⟨c.read_none hlo hhi, c.write_none v hlo hhi⟩,
    fun a ha => ⟨c.read_pattern ha, c.write_pattern v ha⟩, fun o ho => ⟨?sramRead, ?sramWrite⟩,
    fun st hm => ⟨fun i o => Cartridge.chrAddr_shiftReg hm i, fun i o ho => ?shiftReg⟩,
    fun st hm => ⟨fun i o => Cartridge.chrAddr_scanlineIrq hm i, fun i o ho => ?scanlineIrq⟩⟩
  case sramRead => rw [c.read_sram (by omega) (by omega), Nat.add_sub_cancel_left]
  case sramWrite => rw [c.write_sram v (by omega) (by omega), Nat.add_sub_cancel_left]
  case shiftReg => rw [c.read_prg (by omega), Cartridge.prgRead, Cartridge.prgAddr_shiftReg hm i ho]
  case scanlineIrq => rw [c.read_prg (by omega), Cartridge.prgRead, Cartridge.prgAddr_scanlineIrq hm i ho]

/-! ### SHIFT_REG -/

/-- The 5-bit register after one serial bit: the bit enters on top, the others move down (R670). -/
def serialIn (x : BitVec 5) (b : Bool) : BitVec 5 := (x >>> 1) ||| ((BitVec.ofBool b).setWidth 5 <<< 4)

theorem serialIn_eq (x : BitVec 5) (v : Byte) :
    (x >>> 1) ||| ((v.setWidth 5 &&& 0x01#5) <<< 4) = serialIn x (v.getLsbD 0) := by
  have hbit : v.setWidth 5 &&& 0x01#5 = (BitVec.ofBool (v.getLsbD 0)).setWidth 5 := by
    ext k hk
    cases k <;> simp
  rw [hbit]
  rfl

/-- The marker of the empty register reaches bit 0 with the fourth bit, and no sooner (R670). -/
theorem marker_reaches_bit0 (b1 b2 b3 b4 : Bool) :
    let x1 := serialIn 0x10#5 b1
    let x2 := serialIn x1 b2
    let x3 := serialIn x2 b3
    x1.getLsbD 0 = false ∧ x2.getLsbD 0 = false ∧ x3.getLsbD 0 = false ∧ (serialIn x3 b4).getLsbD 0 = true := by
  revert b1 b2 b3 b4
  decide

/-- Five serial bits fill the register, the first lowest. -/
theorem five_serialIn (b1 b2 b3 b4 b5 : Bool) :
    serialIn (serialIn (serialIn (serialIn (serialIn 0x10#5 b1) b2) b3) b4) b5 =
      BitVec.ofBool b5 ++ (BitVec.ofBool b4 ++ (BitVec.ofBool b3 ++ (BitVec.ofBool b2 ++ BitVec.ofBool b1))) := by
  revert b1 b2 b3 b4 b5
  decide

/-- The cartridge with SHIFT_REG's 5-bit register holding `x`. -/
def Cartridge.withSerial (c : Cartridge) (st : ShiftReg) (x : BitVec 5) : Cartridge :=
  { c with mapper := .shiftReg { st with shift := x } }

theorem Cartridge.withSerial_self {c : Cartridge} {st : ShiftReg} (hm : c.mapper = .shiftReg st) :
    c.withSerial st st.shift = c := by
  rw [Cartridge.withSerial, ← hm]

/-- A serial write that does not find the marker in bit 0 moves the register and changes nothing else (R670). -/
theorem Cartridge.withSerial_registerWrite (c : Cartridge) (st : ShiftReg) {x : BitVec 5} (a : Nat) {v : Byte}
    (hv : v.getLsbD 7 = false) (hx : x.getLsbD 0 = false) :
    (c.withSerial st x).registerWrite a v = c.withSerial st (serialIn x (v.getLsbD 0)) := by
  rw [Cartridge.registerWrite_shiftReg rfl, Cartridge.shiftWrite, if_neg (Bool.eq_false_iff.mp hv),
    if_neg (Bool.eq_false_iff.mp hx), serialIn_eq]
  rfl

/-- A serial write that finds the marker in bit 0 dispatches the five bits and empties the register (R670). -/
theorem Cartridge.withSerial_registerWrite_last (c : Cartridge) (st : ShiftReg) {x : BitVec 5} (a : Nat) {v : Byte}
    (hv : v.getLsbD 7 = false) (hx : x.getLsbD 0 = true) :
    (c.withSerial st x).registerWrite a v =
      c.dispatchShift { st with shift := 0x10#5 } a (serialIn x (v.getLsbD 0)) := by
  rw [Cartridge.registerWrite_shiftReg rfl, Cartridge.shiftWrite, if_neg (Bool.eq_false_iff.mp hv), if_pos hx, serialIn_eq]
  rfl

/-- Five serial writes into the empty register dispatch the five bits, first write lowest, to the fifth address (R670). -/
theorem Cartridge.five_serial_writes {c : Cartridge} {st : ShiftReg} (hm : c.mapper = .shiftReg st) (hs : st.shift = 0x10#5)
    (a1 a2 a3 a4 a5 : Nat) {v1 v2 v3 v4 v5 : Byte} (hv : ∀ v ∈ [v1, v2, v3, v4, v5], v.getLsbD 7 = false) :
    ((((c.registerWrite a1 v1).registerWrite a2 v2).registerWrite a3 v3).registerWrite a4 v4).registerWrite a5 v5 =
      c.dispatchShift st a5
        (BitVec.ofBool (v5.getLsbD 0) ++ (BitVec.ofBool (v4.getLsbD 0) ++ (BitVec.ofBool (v3.getLsbD 0) ++
          (BitVec.ofBool (v2.getLsbD 0) ++ BitVec.ofBool (v1.getLsbD 0))))) := by
  simp only [List.forall_mem_cons, List.not_mem_nil, false_imp_iff, implies_true, and_true] at hv
  obtain ⟨hv1, hv2, hv3, hv4, hv5⟩ := hv
  obtain ⟨hx1, hx2, hx3, hx4⟩ := marker_reaches_bit0 (v1.getLsbD 0) (v2.getLsbD 0) (v3.getLsbD 0) (v4.getLsbD 0)
  have hempty : { st with shift := 0x10#5 } = st := by rw [← hs]
  have hstart : c = c.withSerial st 0x10#5 := by rw [← hs, Cartridge.withSerial_self hm]
  conv_lhs => rw [hstart]
  rw [Cartridge.withSerial_registerWrite c st a1 hv1 (by decide), Cartridge.withSerial_registerWrite c st a2 hv2 hx1,
    Cartridge.withSerial_registerWrite c st a3 hv3 hx2, Cartridge.withSerial_registerWrite c st a4 hv4 hx3,
    Cartridge.withSerial_registerWrite_last c st a5 hv5 hx4, five_serialIn, hempty]

/-- Settles O53: the five writes dispatch their bits, and the range of the fifth address names the register. -/
theorem fiveWritesLoadAShiftRegister : Obligations.FiveWritesLoadAShiftRegister := by
  unfold Obligations.FiveWritesLoadAShiftRegister
  intro c st a1 a2 a3 a4 a5 v1 v2 v3 v4 v5 hm hs hv d c' loads
  have hc' : c' = c.dispatchShift st a5 d := Cartridge.five_serial_writes hm hs a1 a2 a3 a4 a5 hv
  rw [Cartridge.dispatchShift] at hc'
  refine ⟨fun hhi => hc'.trans (if_pos hhi), fun hlo hhi => hc'.trans ?chrBank0, fun hlo hhi => hc'.trans ?chrBank1,
    fun hlo => hc'.trans ?prgBank⟩
  case chrBank0 => rw [if_neg (by omega), if_pos hhi]
  case chrBank1 => rw [if_neg (by omega), if_neg (by omega), if_pos hhi]
  case prgBank => rw [if_neg (by omega), if_neg (by omega), if_neg (by omega), ← BitVec.setWidth_eq_extractLsb' (by decide)]

/-- Forcing control bits 3:2 leaves the mirroring of bits 1:0. -/
theorem controlMirror_or (x : BitVec 5) : controlMirror (x ||| 0x0C#5) = controlMirror x := by
  have hlow : (x ||| 0x0C#5).extractLsb' 0 2 = x.extractLsb' 0 2 := by
    rw [BitVec.extractLsb'_or]
    exact BitVec.or_zero
  rw [controlMirror, hlow]
  rfl

/-- The reset write (R670, R672). -/
theorem Cartridge.shiftWrite_reset (c : Cartridge) (st : ShiftReg) (a : Nat) {v : Byte} (hv : v.getLsbD 7 = true) :
    c.shiftWrite st a v = { c with
      mapper := .shiftReg ({ st with shift := 0x10#5, control := st.control ||| 0x0C#5 }.updateOffsets c.prg.len c.chr.len)
      mirror := controlMirror st.control } := by
  rw [Cartridge.shiftWrite, if_pos hv, Cartridge.writeControl, controlMirror_or]

/-- Setting bit 0 gives the odd bank of a pair. -/
theorem toNat_or_one {w : Nat} (hw : 0 < w) (x : BitVec w) : (x ||| 1#w).toNat = x.toNat - x.toNat % 2 + 1 := by
  have hone : (1#w).toNat = 1 := by simp [Nat.one_mod_two_pow, hw]
  have hdiv : (x.toNat ||| 1) / 2 = x.toNat / 2 ||| 0 := Nat.or_div_two
  have hmod : (x.toNat ||| 1) % 2 = 1 := Nat.or_mod_two_eq_one.mpr (.inr rfl)
  rw [BitVec.toNat_or, hone]
  rw [Nat.or_zero] at hdiv
  omega

/-- Clearing bit 0 gives the even bank of a pair. -/
theorem toNat_and_not_one {w : Nat} (x : BitVec w) : (x &&& ~~~1#w).toNat = x.toNat - x.toNat % 2 := by
  have hshift : x &&& ~~~1#w = (x >>> 1) <<< 1 := by
    ext k hk
    cases k <;> simp [Nat.add_comm 1, hk]
  have hle : x.toNat / 2 * 2 < 2 ^ w := by have := x.isLt; omega
  rw [hshift, BitVec.toNat_shiftLeft, BitVec.toNat_ushiftRight, Nat.shiftRight_one, Nat.shiftLeft_eq, pow_one,
    Nat.mod_eq_of_lt hle]
  omega

theorem ShiftReg.prgOffsets_paired {st : ShiftReg} (len : Nat) (h : st.prgMode.toNat < 2) :
    st.prgOffsets len = #v[bankOffset (st.prgBank.toNat - st.prgBank.toNat % 2 : Nat) 0x4000 len,
      bankOffset (st.prgBank.toNat - st.prgBank.toNat % 2 + 1 : Nat) 0x4000 len] := by
  rw [← toNat_or_one (w := 4) (by decide), ← toNat_and_not_one]
  have hmode : st.prgMode.toNat = 0 ∨ st.prgMode.toNat = 1 := by omega
  rcases hmode with h | h <;> (rw [ShiftReg.prgOffsets, h]; rfl)

theorem ShiftReg.prgOffsets_firstFixed {st : ShiftReg} (len : Nat) (h : st.prgMode.toNat = 2) :
    st.prgOffsets len = #v[0, bankOffset st.prgBank.toNat 0x4000 len] := by
  rw [ShiftReg.prgOffsets, h]
  rfl

theorem ShiftReg.prgOffsets_lastFixed {st : ShiftReg} (len : Nat) (h : st.prgMode.toNat = 3) :
    st.prgOffsets len = #v[bankOffset st.prgBank.toNat 0x4000 len, bankOffset (-1) 0x4000 len] := by
  rw [ShiftReg.prgOffsets, h]
  rfl

theorem ShiftReg.chrOffsets_paired {st : ShiftReg} (len : Nat) (h : st.chrMode = false) :
    st.chrOffsets len = #v[bankOffset (st.chrBank0.toNat - st.chrBank0.toNat % 2 : Nat) 0x1000 len,
      bankOffset (st.chrBank0.toNat - st.chrBank0.toNat % 2 + 1 : Nat) 0x1000 len] := by
  rw [← toNat_or_one (w := 5) (by decide), ← toNat_and_not_one, ShiftReg.chrOffsets, h]
  rfl

theorem ShiftReg.chrOffsets_separate {st : ShiftReg} (len : Nat) (h : st.chrMode = true) :
    st.chrOffsets len = #v[bankOffset st.chrBank0.toNat 0x1000 len, bankOffset st.chrBank1.toNat 0x1000 len] := by
  rw [ShiftReg.chrOffsets, if_pos h]

/-- Settles O54: the reset write, and the offsets of each PRG mode and each CHR mode. -/
theorem shiftRegisterResetAndWindows : Obligations.ShiftRegisterResetAndWindows := by
  unfold Obligations.ShiftRegisterResetAndWindows
  refine ⟨fun c st a v hm hv => ?reset, fun st p c => ⟨ShiftReg.prgOffsets_paired p, ShiftReg.prgOffsets_firstFixed p,
    ShiftReg.prgOffsets_lastFixed p, ShiftReg.chrOffsets_paired c, ShiftReg.chrOffsets_separate c⟩⟩
  case reset =>
    rw [Cartridge.registerWrite_shiftReg hm, Cartridge.shiftWrite_reset c st a hv]
    rfl

/-! ### SCANLINE_IRQ: registers and windows -/

theorem scanlineMirror_of_mirror_register (m : Mirroring) {a : Nat} (v : Byte) (hlo : 0xA000 ≤ a) (hhi : a < 0xC000)
    (heven : a % 2 = 0) : scanlineMirror m a v = if v.getLsbD 0 then .horizontal else .vertical :=
  if_pos ⟨hlo, hhi, heven⟩

theorem scanlineMirror_of_other_register (m : Mirroring) {a : Nat} (v : Byte)
    (h : ¬ (0xA000 ≤ a ∧ a < 0xC000 ∧ a % 2 = 0)) : scanlineMirror m a v = m := if_neg h

theorem ScanlineIrq.writeRegister_bankSelect (st : ScanlineIrq) {a : Nat} (v : Byte) (hhi : a < 0xA000) (heven : a % 2 = 0) :
    st.writeRegister a v =
      { st with bankSelect := v.extractLsb' 0 3, prgMode := v.getLsbD 6, chrMode := v.getLsbD 7 } := by
  rw [ScanlineIrq.writeRegister, if_pos hhi, if_pos heven]

theorem ScanlineIrq.writeRegister_bank (st : ScanlineIrq) {a : Nat} (v : Byte) (hhi : a < 0xA000) (hodd : a % 2 = 1) :
    st.writeRegister a v = { st with regs := st.regs.setIfInBounds st.bankSelect.toNat v } := by
  rw [ScanlineIrq.writeRegister, if_pos hhi, if_neg (by omega)]

theorem ScanlineIrq.writeRegister_mirror (st : ScanlineIrq) {a : Nat} (v : Byte) (hlo : 0xA000 ≤ a) (hhi : a < 0xC000) :
    st.writeRegister a v = st := by
  rw [ScanlineIrq.writeRegister, if_neg (by omega), if_pos hhi]

theorem ScanlineIrq.writeRegister_latch (st : ScanlineIrq) {a : Nat} (v : Byte) (hlo : 0xC000 ≤ a) (hhi : a < 0xE000)
    (heven : a % 2 = 0) : st.writeRegister a v = { st with irqLatch := v } := by
  rw [ScanlineIrq.writeRegister, if_neg (by omega), if_neg (by omega), if_pos hhi, if_pos heven]

theorem ScanlineIrq.writeRegister_reload (st : ScanlineIrq) {a : Nat} (v : Byte) (hlo : 0xC000 ≤ a) (hhi : a < 0xE000)
    (hodd : a % 2 = 1) : st.writeRegister a v = { st with irqCounter := 0 } := by
  rw [ScanlineIrq.writeRegister, if_neg (by omega), if_neg (by omega), if_pos hhi, if_neg (by omega)]

theorem ScanlineIrq.writeRegister_enable (st : ScanlineIrq) {a : Nat} (v : Byte) (hlo : 0xE000 ≤ a) :
    st.writeRegister a v = { st with irqEnable := decide (a % 2 = 1) } := by
  rw [ScanlineIrq.writeRegister, if_neg (by omega), if_neg (by omega), if_neg (by omega)]

theorem ScanlineIrq.reg_eq (st : ScanlineIrq) (k : Fin 8) : st.reg k = st.regs[k] := by
  rw [ScanlineIrq.reg, Vector.getElem?_eq_getElem k.isLt]
  rfl

/-- The fixed bank before the last stands third with `prg_mode` clear and first with it set; R[6] takes the other place (R698). -/
theorem ScanlineIrq.prgOffsets_getElem (st : ScanlineIrq) (len : Nat) (i : Fin 4) :
    (st.prgOffsets len)[i] =
      bankOffset (if i = 3 then -1 else if i = 1 then ((st.regs[7].toNat : Nat) : Int)
        else if (i = 2) = (st.prgMode = false) then -2 else ((st.regs[6].toNat : Nat) : Int)) 0x2000 len := by
  have h6 : st.reg 6 = st.regs[6] := st.reg_eq 6
  have h7 : st.reg 7 = st.regs[7] := st.reg_eq 7
  cases hmode : st.prgMode
  · fin_cases i <;> simp [ScanlineIrq.prgOffsets, hmode, h6, h7]
  · fin_cases i <;> simp [ScanlineIrq.prgOffsets, hmode, h6, h7]

/-- The four pattern offsets of the two 2 KiB banks R[0] and R[1] (R698). -/
def ScanlineIrq.pairOffsets (st : ScanlineIrq) (len : Nat) : List Nat :=
  [bankOffset (st.regs[0].toNat - st.regs[0].toNat % 2 : Nat) 0x400 len,
   bankOffset (st.regs[0].toNat - st.regs[0].toNat % 2 + 1 : Nat) 0x400 len,
   bankOffset (st.regs[1].toNat - st.regs[1].toNat % 2 : Nat) 0x400 len,
   bankOffset (st.regs[1].toNat - st.regs[1].toNat % 2 + 1 : Nat) 0x400 len]

/-- The four pattern offsets of the 1 KiB banks R[2] to R[5] (R698). -/
def ScanlineIrq.singleOffsets (st : ScanlineIrq) (len : Nat) : List Nat :=
  [bankOffset st.regs[2].toNat 0x400 len, bankOffset st.regs[3].toNat 0x400 len,
   bankOffset st.regs[4].toNat 0x400 len, bankOffset st.regs[5].toNat 0x400 len]

theorem ScanlineIrq.chrOffsets_toList (st : ScanlineIrq) (len : Nat) :
    (st.chrOffsets len).toList =
      if st.chrMode = false then st.pairOffsets len ++ st.singleOffsets len
      else st.singleOffsets len ++ st.pairOffsets len := by
  rw [ScanlineIrq.pairOffsets, ← toNat_or_one (w := 8) (by decide) st.regs[0], ← toNat_and_not_one st.regs[0],
    ← toNat_or_one (w := 8) (by decide) st.regs[1], ← toNat_and_not_one st.regs[1]]
  cases hmode : st.chrMode <;> (rw [ScanlineIrq.chrOffsets, hmode]; rfl)

/-- Settles O55: the register by the range and parity of the address, the mirroring by its own register, and the offsets. -/
theorem scanlineRegisters : Obligations.ScanlineRegisters := by
  unfold Obligations.ScanlineRegisters
  intro c st a v hm _ _ wrote
  have writes {st' : ScanlineIrq} {m : Mirroring} (hst : st.writeRegister a v = st') (hmirror : scanlineMirror c.mirror a v = m) :
      wrote st' m := by
    rw [← hst, ← hmirror]
    exact Cartridge.registerWrite_scanlineIrq hm a v
  have other (h : ¬ (0xA000 ≤ a ∧ a < 0xC000 ∧ a % 2 = 0)) := scanlineMirror_of_other_register c.mirror v h
  exact ⟨fun hhi heven => writes (st.writeRegister_bankSelect v hhi heven) (other (by omega)),
    fun hhi hodd => writes (st.writeRegister_bank v hhi hodd) (other (by omega)),
    fun hlo hhi heven => writes (st.writeRegister_mirror v hlo hhi) (scanlineMirror_of_mirror_register _ v hlo hhi heven),
    fun hlo hhi hodd => writes (st.writeRegister_mirror v hlo hhi) (other (by omega)),
    fun hlo hhi heven => writes (st.writeRegister_latch v hlo hhi heven) (other (by omega)),
    fun hlo hhi hodd => writes (st.writeRegister_reload v hlo hhi hodd) (other (by omega)),
    fun hlo => writes (st.writeRegister_enable v hlo) (other (by omega)),
    st.prgOffsets_getElem c.prg.len, st.chrOffsets_toList c.chr.len⟩

/-! ### SCANLINE_IRQ: the counter -/

theorem ScanlineIrq.clocked_of_zero {st : ScanlineIrq} (h : st.irqCounter = 0) :
    st.clocked = { st with irqCounter := st.irqLatch } := by
  rw [ScanlineIrq.clocked, if_pos h]

theorem ScanlineIrq.clocked_of_ne_zero {st : ScanlineIrq} (h : st.irqCounter ≠ 0) :
    st.clocked = { st with irqCounter := st.irqCounter - 1 } := by
  rw [ScanlineIrq.clocked, if_neg h]

/-- From a cleared counter the first clock loads the latch and each later one counts down (R697). -/
theorem ScanlineIrq.clocked_iterate {st : ScanlineIrq} (h0 : st.irqCounter = 0) {k : Nat} (hk : k ≤ st.irqLatch.toNat) :
    ScanlineIrq.clocked^[k + 1] st = { st with irqCounter := st.irqLatch - BitVec.ofNat 8 k } := by
  induction k with
  | zero => simpa using ScanlineIrq.clocked_of_zero h0
  | succ k ih =>
    have hne : st.irqLatch - BitVec.ofNat 8 k ≠ 0 := by bv_omega
    have hnext : st.irqLatch - BitVec.ofNat 8 k - 1 = st.irqLatch - BitVec.ofNat 8 (k + 1) := by bv_omega
    rw [Function.iterate_succ_apply', ih (by omega), ScanlineIrq.clocked_of_ne_zero hne, hnext]

theorem Ppu.clocksScanline_iff (p : Ppu) :
    p.clocksScanline = true ↔ p.dot = 260 ∧ (p.scanline < 240 ∨ 260 < p.scanline) ∧ p.rendering = true := by
  simp only [Ppu.clocksScanline, Bool.and_eq_true, Bool.not_eq_true', Bool.and_eq_false_iff, decide_eq_true_eq,
    decide_eq_false_iff_not, not_le, and_assoc]

theorem mapperStep_of_clock {s : State} {st : ScanlineIrq} (hm : s.cart.mapper = .scanlineIrq st)
    (h : s.ppu.clocksScanline = true) : mapperStep s = clockCounter st s := by
  rw [mapperStep, hm]
  exact if_pos h

theorem mapperStep_of_no_clock {s : State} (h : ¬ s.ppu.clocksScanline = true) : mapperStep s = s := by
  unfold mapperStep
  split
  · exact if_neg h
  · rfl
  · rfl

theorem mapperStep_of_other_variant {s : State} (h : ∀ st, s.cart.mapper ≠ .scanlineIrq st) : mapperStep s = s := by
  unfold mapperStep
  split
  · exact absurd ‹_› (h _)
  · rfl
  · rfl

/-- Settles O56: the countdown by induction on the clocks, and the mapper step by where it clocks. -/
theorem scanlineCounterReachesZero : Obligations.ScanlineCounterReachesZero := by
  unfold Obligations.ScanlineCounterReachesZero
  refine ⟨fun st k h0 hk => ?countdown, fun s st hm => ⟨fun hclock => ?clock, fun hclock => ?noClock⟩,
    fun s => mapperStep_of_other_variant⟩
  case countdown =>
    rw [ScanlineIrq.clocked_iterate h0 hk]
    bv_omega
  case clock =>
    rw [mapperStep_of_clock hm (s.ppu.clocksScanline_iff.mpr hclock), clockCounter]
    simp only [Bool.and_eq_true, decide_eq_true_eq]
    rfl
  case noClock => exact mapperStep_of_no_clock (s.ppu.clocksScanline_iff.not.mpr hclock)

end Sys2Proof.Machine
end

section
/-! SUPPORT. The opcode map row by row: what each row builds, and that the encoder writes the row of every well-formed instruction
(30_encoding.md R160 to R172); the encoding statements settled by them. -/

namespace Sys2Proof

open Sys2Proof.Machine Sys2Proof.Claim

/-! ### Operands by mode -/

/-- The operand that a row of the given kind and mode makes of the two bytes after the opcode (R161, log 10). -/
def operandOf (documented : Bool) (m : Mode) (lo hi : Byte) : Operand :=
  match m with
  | .implied => .implied
  | .accumulator => .accumulator
  | .immediate => if documented then .immediate lo else .unreadImmediate
  | .zeroPage => .zeroPage lo
  | .zeroPageX => .zeroPageX lo
  | .zeroPageY => .zeroPageY lo
  | .indexedIndirect => .indexedIndirect lo
  | .indirectIndexed => .indirectIndexed lo
  | .relative => .relative lo
  | .absolute => .absolute (wordOf lo hi)
  | .absoluteX => .absoluteX (wordOf lo hi)
  | .absoluteY => .absoluteY (wordOf lo hi)
  | .indirect => .indirect (wordOf lo hi)

theorem operandOf_mode (d : Bool) (m : Mode) (lo hi : Byte) : (operandOf d m lo hi).mode = m := by
  cases m with
  | immediate => cases d <;> rfl
  | _ => rfl

/-- The bytes of a row's operand are those the row reads. -/
theorem operandOf_bytes (r : OpRow) (lo hi : Byte) :
    (operandOf r.documented r.mode lo hi).bytes = [lo, hi].take r.readBytes := by
  obtain ⟨_, mode, _, _, _, documented, _⟩ := r
  cases mode with
  | immediate => cases documented <;> rfl
  | absolute | absoluteX | absoluteY | indirect =>
    simp [operandOf, Operand.bytes, OpRow.readBytes, Mode.operandBytes]
  | _ => simp [operandOf, Operand.bytes, OpRow.readBytes, Mode.operandBytes]

/-- An operand that an undocumented instruction may carry is its mode's, made of its own bytes. -/
theorem operandOf_self {o : Operand} (h : operandCarried o = true) :
    operandOf false o.mode (o.bytes.getD 0 0) (o.bytes.getD 1 0) = o := by
  cases o with
  | immediate => cases h
  | absolute w => exact congrArg Operand.absolute (wordOf_lo_hi w)
  | absoluteX w => exact congrArg Operand.absoluteX (wordOf_lo_hi w)
  | absoluteY w => exact congrArg Operand.absoluteY (wordOf_lo_hi w)
  | indirect w => exact congrArg Operand.indirect (wordOf_lo_hi w)
  | _ => rfl

/-! ### The rows -/

/-- What a row of the map builds: a well-formed instruction of the row's opcode, mnemonic and mode (R167). -/
structure RowSound (op : Byte) (r : OpRow) (lo hi : Byte) : Prop where
  wf : (r.build lo hi).wf = true := by rfl
  opcode : (r.build lo hi).opcode = op := by rfl
  mnemonic : (r.build lo hi).mnemonic = r.mnemonic := by rfl
  operand : (r.build lo hi).operand = operandOf r.documented r.mode lo hi := by rfl

/-- The rows of a list are those of the opcodes from `n` on. -/
inductive RowsSound : Nat → List OpRow → Prop
  | nil {n : Nat} : RowsSound n []
  | cons {n : Nat} {r : OpRow} {rest : List OpRow} (h : ∀ lo hi, RowSound (BitVec.ofNat 8 n) r lo hi)
      (t : RowsSound (n + 1) rest) : RowsSound n (r :: rest)

theorem RowsSound.getElem {rows : List OpRow} {n : Nat} (h : RowsSound n rows) :
    ∀ (k : Nat) (hk : k < rows.length) (lo hi : Byte), RowSound (BitVec.ofNat 8 (n + k)) rows[k] lo hi := by
  induction h with
  | nil => exact fun k hk => absurd hk (Nat.not_lt_zero k)
  | cons hr _ ih =>
    intro k hk
    cases k with
    | zero => exact hr
    | succ k => simpa [Nat.add_assoc, Nat.add_comm 1] using ih k (by simpa using hk)

theorem opTable_sound : RowsSound 0 opTable := by
  repeat refine .cons (fun _ _ => {}) ?_
  exact .nil

theorem opRow_sound (op lo hi : Byte) : RowSound op (opRow op) lo hi := by
  have hlt : op.toNat < opTable.length := by rw [opTable_length]; exact op.isLt
  have h := opTable_sound.getElem op.toNat hlt lo hi
  rwa [Nat.zero_add, BitVec.ofNat_toNat, BitVec.setWidth_eq, ← List.getD_eq_getElem _ _ hlt] at h

theorem opRow_mem (op : Byte) : opRow op ∈ opTable := by
  have hlt : op.toNat < opTable.length := by rw [opTable_length]; exact op.isLt
  rw [opRow, List.getD_eq_getElem _ _ hlt]
  exact List.getElem_mem hlt

theorem OpRow.readBytes_cases (r : OpRow) : r.readBytes = 0 ∨ r.readBytes = 1 ∨ r.readBytes = 2 := by
  obtain ⟨_, mode, _, _, _, documented, _⟩ := r
  cases mode <;> cases documented <;> simp [OpRow.readBytes, Mode.operandBytes]

/-! ### The decoder -/

/-- What the decoder answers is the row's instruction, of bytes that the list begins with. -/
theorem decode_ok {bs : List Byte} {i : Instr} (h : decode bs = .ok i) :
    ∃ op lo hi rest, i = (opRow op).build lo hi ∧ bs = op :: ([lo, hi].take (opRow op).readBytes ++ rest) := by
  cases bs with
  | nil => cases h
  | cons op rest =>
    simp only [decode] at h
    split at h
    case h_1 hn => cases h; exact ⟨op, 0, 0, _, rfl, by rw [hn]; rfl⟩
    case h_2 lo tail hn => cases h; exact ⟨op, lo, 0, tail, rfl, by rw [hn]; rfl⟩
    case h_3 lo hi tail hn => cases h; exact ⟨op, lo, hi, tail, rfl, by rw [hn]; rfl⟩
    case h_4 => cases h

/-- Two bytes after the opcode are enough for every row, which reads the first ones and takes 0 for the others. -/
theorem decode_two_operand_bytes (op b1 b2 : Byte) (rest : List Byte) :
    decode (op :: b1 :: b2 :: rest) =
      .ok ((opRow op).build (if (opRow op).readBytes = 0 then 0 else b1) (if (opRow op).readBytes = 2 then b2 else 0)) := by
  rcases (opRow op).readBytes_cases with h | h | h <;> simp [decode, h]

/-- Settles O2: an answer is its row's instruction, and the row is sound. -/
theorem decodedInstructionIsWellFormed : Obligations.DecodedInstructionIsWellFormed := by
  unfold Obligations.DecodedInstructionIsWellFormed
  intro bs i h
  obtain ⟨op, lo, hi, rest, rfl, rfl⟩ := decode_ok h
  have hrow := opRow_sound op lo hi
  exact ⟨hrow.wf, rest, by rw [hrow.opcode, hrow.operand, operandOf_bytes]⟩

/-- Settles O3: every row is sound; the counts and the penalties are read off the table. -/
theorem opcodeMapIsTotalAndCounted : Obligations.OpcodeMapIsTotalAndCounted := by
  unfold Obligations.OpcodeMapIsTotalAndCounted
  refine ⟨fun op b1 b2 => ?total, by decide +kernel, by decide +kernel, by decide +kernel⟩
  case total =>
    have hdecode := decode_two_operand_bytes op b1 b2 []
    have hrow := opRow_sound op (if (opRow op).readBytes = 0 then 0 else b1) (if (opRow op).readBytes = 2 then b2 else 0)
    exact ⟨_, hdecode, hrow.opcode, hrow.mnemonic.symm, by rw [hrow.operand, operandOf_mode]⟩

/-- Settles O4: each word is run through the decoder. -/
theorem writtenOutWordsDecode : Obligations.WrittenOutWordsDecode := by
  unfold Obligations.WrittenOutWordsDecode
  refine ⟨?_, ?_, ?_, ?_, ?_, ?_, ?_, ?_, ?_, ?_, ?_⟩ <;> rfl

/-! ### The encoder -/

/-- The numbers of the opcode map's row at the encoder's opcode. -/
def Instr.layout (i : Instr) : Layout := ⟨i.opcode, opLength i.opcode, opBaseCycles i.opcode, (opRow i.opcode).pagePenalty⟩

/-- The map builds the label's instruction at each opcode value of its forms (46_undocumented.md R482). -/
def UndocBuilt (mk : Byte → Operand → Instr) (forms : UndocForms) : Prop :=
  forms.Forall fun r => r.2.Forall fun op => (opRow op).build = fun lo hi => mk op (operandOf false r.1 lo hi)

/-- A well-formed instruction of a label, from the label's lemmas: it is its row's, and the row is undocumented. -/
theorem laid_of_label {mk : Byte → Operand → Instr} {forms : UndocForms} {op : Byte} {o : Operand}
    (hrow : Laws.EncodedRow.Statement (mk op o)) (hw : (mk op o).wf = true)
    (hundoc : (mk op o).undoc = some (op, forms) := by rfl) (hop : (mk op o).opcode = op := by rfl)
    (ho : (mk op o).operand = o := by rfl)
    (hbuilt : UndocBuilt mk forms := by simp only [UndocBuilt, sevenForms, List.Forall]; repeat' constructor)
    (hdirect : forms.all (fun r => r.1 != .indirect) = true := by rfl) :
    Laid (mk op o) (mk op o).layout ∧ (opRow (mk op o).opcode).documented = false := by
  obtain ⟨-, hmode, hdoc⟩ := hrow hw
  rw [hundoc, Option.isNone_some] at hdoc
  refine ⟨?_, hdoc⟩
  rw [hop] at hmode hdoc
  rw [ho] at hmode
  rw [Instr.wf, hundoc, ho] at hw
  simp only [undocWellFormed, modeListed, Bool.and_eq_true, List.any_eq_true, beq_iff_eq, List.contains_iff_mem] at hw
  obtain ⟨⟨-, r, hr, hmem, hrmode⟩, hcarried⟩ := hw
  have hbuild := List.forall_iff_forall_mem.mp (List.forall_iff_forall_mem.mp hbuilt r hr) op hmem
  have hbytes := operandOf_bytes (opRow op) (o.bytes.getD 0 0) (o.bytes.getD 1 0)
  rw [hmode, hdoc, operandOf_self hcarried] at hbytes
  have hread : (opRow op).readBytes = o.bytes.length := by
    have hle := (opRow op).readBytes_cases
    rw [hbytes, List.length_take, List.length_cons, List.length_singleton]
    omega
  refine { op := rfl, length := rfl, cycles := rfl, penalty := rfl, readBytes := ?_, build := ?_, direct := ?_ }
  · rw [ho, ← hread]; exact congrArg (fun b => (opRow b).readBytes) hop
  · rw [ho]
    show (opRow (mk op o).opcode).build _ _ = _
    rw [hop, hbuild]
    show mk op (operandOf false r.1 _ _) = _
    rw [hrmode, operandOf_self hcarried]
  · rw [ho]
    rintro p rfl
    have := List.all_eq_true.mp hdirect r hr
    simp [hrmode, Operand.mode] at this

/-- A well-formed undocumented instruction is its row's, like a documented one, and the row is undocumented. -/
theorem laid_undocumented {i : Instr} (h : i.undoc.isSome = true) (hw : i.wf = true) :
    Laid i i.layout ∧ (opRow i.opcode).documented = false := by
  cases i with
  | kil op o => exact laid_of_label (Laws.EncodedRow.kil op o) hw
  | nopUndoc op o => exact laid_of_label (Laws.EncodedRow.nopUndoc op o) hw
  | slo op o => exact laid_of_label (Laws.EncodedRow.slo op o) hw
  | rla op o => exact laid_of_label (Laws.EncodedRow.rla op o) hw
  | sre op o => exact laid_of_label (Laws.EncodedRow.sre op o) hw
  | rra op o => exact laid_of_label (Laws.EncodedRow.rra op o) hw
  | dcp op o => exact laid_of_label (Laws.EncodedRow.dcp op o) hw
  | isc op o => exact laid_of_label (Laws.EncodedRow.isc op o) hw
  | sax op o => exact laid_of_label (Laws.EncodedRow.sax op o) hw
  | lax op o => exact laid_of_label (Laws.EncodedRow.lax op o) hw
  | anc op o => exact laid_of_label (Laws.EncodedRow.anc op o) hw
  | alr op o => exact laid_of_label (Laws.EncodedRow.alr op o) hw
  | arr op o => exact laid_of_label (Laws.EncodedRow.arr op o) hw
  | xaa op o => exact laid_of_label (Laws.EncodedRow.xaa op o) hw
  | axs op o => exact laid_of_label (Laws.EncodedRow.axs op o) hw
  | sbcUndoc op o => exact laid_of_label (Laws.EncodedRow.sbcUndoc op o) hw
  | ahx op o => exact laid_of_label (Laws.EncodedRow.ahx op o) hw
  | shy op o => exact laid_of_label (Laws.EncodedRow.shy op o) hw
  | shx op o => exact laid_of_label (Laws.EncodedRow.shx op o) hw
  | tas op o => exact laid_of_label (Laws.EncodedRow.tas op o) hw
  | las op o => exact laid_of_label (Laws.EncodedRow.las op o) hw
  | _ => cases h

/-- The instruction's own bytes decode to it, whatever follows them. -/
def DecodesBack (i : Instr) : Prop := ∀ rest, decode (i.opcode :: (i.operand.bytes ++ rest)) = .ok i

theorem decodesBack_of_laid {i : Instr} {l : Layout} (h : Laid i l) : DecodesBack i := by
  intro rest
  rw [h.op]
  exact h.coded rest

theorem decodesBack_of_layout {i : Instr} (h : Laid i i.layout) : DecodesBack i := decodesBack_of_laid h

/-- The encoder's opcode and operand bytes are the map's for every well-formed instruction (R167). -/
theorem decodesBack_of_wf {i : Instr} (h : i.wf = true) : DecodesBack i := by
  cases i with
  | lda o => exact decodesBack_of_laid (laid_lda o)
  | ldx o => exact decodesBack_of_laid (laid_ldx o)
  | ldy o => exact decodesBack_of_laid (laid_ldy o)
  | sta o => exact decodesBack_of_laid (laid_sta o)
  | stx o => exact decodesBack_of_laid (laid_stx o)
  | sty o => exact decodesBack_of_laid (laid_sty o)
  | adc o => exact decodesBack_of_laid (laid_adc o)
  | sbc o => exact decodesBack_of_laid (laid_sbc o)
  | and o => exact decodesBack_of_laid (laid_and o)
  | ora o => exact decodesBack_of_laid (laid_ora o)
  | eor o => exact decodesBack_of_laid (laid_eor o)
  | bit o => exact decodesBack_of_laid (laid_bit o)
  | cmp o => exact decodesBack_of_laid (laid_cmp o)
  | cpx o => exact decodesBack_of_laid (laid_cpx o)
  | cpy o => exact decodesBack_of_laid (laid_cpy o)
  | inc o => exact decodesBack_of_laid (laid_inc o)
  | dec o => exact decodesBack_of_laid (laid_dec o)
  | asl o => exact decodesBack_of_laid (laid_asl o)
  | lsr o => exact decodesBack_of_laid (laid_lsr o)
  | rol o => exact decodesBack_of_laid (laid_rol o)
  | ror o => exact decodesBack_of_laid (laid_ror o)
  | jmp o => cases o with
    | absolute addr => exact decodesBack_of_laid (laid_jmp_absolute addr)
    | indirect ptr => exact coded_jmp_indirect ptr
  | jsr addr => exact decodesBack_of_laid (laid_jsr addr)
  | tax | tay | txa | tya | tsx | txs | inx | iny | dex | dey | rts | pha | php | pla | plp | clc | cld | cli | clv
    | sec | sed | sei | rti | nop | bcc | bcs | beq | bmi | bne | bpl | bvc | bvs | brk =>
    exact decodesBack_of_layout {}
  | kil | nopUndoc | slo | rla | sre | rra | dcp | isc | sax | lax | anc | alr | arr | xaa | axs | sbcUndoc | ahx
    | shy | shx | tas | las =>
    exact decodesBack_of_layout (laid_undocumented rfl h).1

/-- Settles O1: the encoding is the opcode and the operand bytes; BRK's has its padding byte among the bytes that follow. -/
theorem decodeOfEncodeIsTheInstruction : Obligations.DecodeOfEncodeIsTheInstruction := by
  unfold Obligations.DecodeOfEncodeIsTheInstruction
  intro i rest h
  cases i with
  | brk => exact decodesBack_of_wf h (0x00 :: rest)
  | _ => exact decodesBack_of_wf h rest

end Sys2Proof
end

section
/-! SUPPORT. What every instruction can do, said once: the shape of each meaning's handler, with what it may write of the
processor (10_state.md R31 to R34, R38), and what an answer and a fault of `exec` then are. -/

namespace Sys2Proof.Machine

open Sys2Proof.Claim

/-! ### The writers of the processor -/

/-- The writers of A (R31), but for the accumulator forms of the shifts. -/
def writersA : List String := ["LDA", "PLA", "TXA", "TYA", "ADC", "SBC", "AND", "ORA", "EOR"]

/-- The shifts and rotates, whose accumulator forms write A (R31). -/
def shiftMnemonics : List String := ["ASL", "LSR", "ROL", "ROR"]

/-- The writers of X (R32). -/
def writersX : List String := ["LDX", "TAX", "TSX", "INX", "DEX"]

/-- The writers of Y (R33). -/
def writersY : List String := ["LDY", "TAY", "INY", "DEY"]

/-- The writers of SP (R34). -/
def writersSp : List String := ["TXS", "PHA", "PHP", "PLA", "PLP", "JSR", "RTS", "BRK", "RTI"]

/-- The writers of C (R38). -/
def writersC : List String :=
  ["ADC", "SBC", "CMP", "CPX", "CPY", "ASL", "LSR", "ROL", "ROR", "CLC", "SEC", "PLP", "RTI"]

/-- The writers of Z and N (R38). -/
def writersZN : List String :=
  ["LDA", "LDX", "LDY", "TAX", "TAY", "TXA", "TYA", "TSX", "PLA", "ADC", "SBC", "AND", "ORA", "EOR", "BIT", "CMP",
   "CPX", "CPY", "INC", "DEC", "INX", "INY", "DEX", "DEY", "ASL", "LSR", "ROL", "ROR", "PLP", "RTI"]

/-- The writers of I (R38). -/
def writersI : List String := ["SEI", "CLI", "PLP", "RTI", "BRK"]

/-- The writers of D (R38). -/
def writersD : List String := ["SED", "CLD", "PLP", "RTI"]

/-- The writers of V (R38). -/
def writersV : List String := ["ADC", "SBC", "BIT", "CLV", "PLP", "RTI"]

/-- The writers of the whole status, B and U among it (R38). -/
def writersP : List String := ["PLP", "RTI"]

/-- A change of the flags that the instruction may make. -/
structure FlagChange (ins : Instr) (f f' : Flags) : Prop where
  c : f'.c = f.c ∨ ins.mnemonic ∈ writersC
  z : f'.z = f.z ∨ ins.mnemonic ∈ writersZN
  n : f'.n = f.n ∨ ins.mnemonic ∈ writersZN
  i : f'.i = f.i ∨ ins.mnemonic ∈ writersI
  d : f'.d = f.d ∨ ins.mnemonic ∈ writersD
  v : f'.v = f.v ∨ ins.mnemonic ∈ writersV
  bu : (f'.b = f.b ∧ f'.u = f.u) ∨ ins.mnemonic ∈ writersP
  legal : f.Inv → f'.Inv

/-- A change of the processor that the instruction may make, its stall counter left out. -/
structure CpuChange (i : Instr) (c c' : Cpu) : Prop where
  a : c'.a = c.a ∨ i.mnemonic ∈ writersA ∨ (i.mnemonic ∈ shiftMnemonics ∧ i.operand = .accumulator)
  x : c'.x = c.x ∨ i.mnemonic ∈ writersX
  y : c'.y = c.y ∨ i.mnemonic ∈ writersY
  sp : c'.sp = c.sp ∨ i.mnemonic ∈ writersSp
  flags : FlagChange i c.flags c'.flags
  latch : c'.latch = c.latch
  cycles : c.cycles ≤ c'.cycles

theorem FlagChange.refl (i : Instr) (f : Flags) : FlagChange i f f :=
  ⟨.inl rfl, .inl rfl, .inl rfl, .inl rfl, .inl rfl, .inl rfl, .inl ⟨rfl, rfl⟩, id⟩

theorem CpuChange.refl (i : Instr) (c : Cpu) : CpuChange i c c :=
  ⟨.inl rfl, .inl rfl, .inl rfl, .inl rfl, .refl i _, rfl, Nat.le_refl _⟩

/-- Two steps keep a part that both keep; the part is the instruction's to write otherwise. -/
theorem kept_trans {α : Type} {x y z : α} {W : Prop} (h : y = x ∨ W) (k : z = y ∨ W) : z = x ∨ W := by
  rcases h with rfl | h
  · exact k
  · exact .inr h

theorem FlagChange.trans {i : Instr} {f g h : Flags} (k : FlagChange i f g) (l : FlagChange i g h) : FlagChange i f h where
  c := kept_trans k.c l.c
  z := kept_trans k.z l.z
  n := kept_trans k.n l.n
  i := kept_trans k.i l.i
  d := kept_trans k.d l.d
  v := kept_trans k.v l.v
  bu := by
    rcases k.bu with ⟨hb, hu⟩ | hw
    · rcases l.bu with ⟨hb', hu'⟩ | hw
      · exact .inl ⟨hb'.trans hb, hu'.trans hu⟩
      · exact .inr hw
    · exact .inr hw
  legal := l.legal ∘ k.legal

theorem CpuChange.trans {i : Instr} {c d e : Cpu} (h : CpuChange i c d) (k : CpuChange i d e) : CpuChange i c e :=
  ⟨kept_trans h.a k.a, kept_trans h.x k.x, kept_trans h.y k.y, kept_trans h.sp k.sp, h.flags.trans k.flags,
    k.latch.trans h.latch, h.cycles.trans k.cycles⟩

/-! ### The flag computations -/

theorem FlagChange.setZN {i : Instr} (f : Flags) (m : Byte)
    (h : i.mnemonic ∈ writersZN := by simp [Instr.mnemonic, writersZN]) : FlagChange i f (f.setZN m) :=
  { FlagChange.refl i f with z := .inr h, n := .inr h }

/-- What computes C with Z and N: the compares, shifts and rotates. -/
theorem FlagChange.setZNC {i : Instr} (f : Flags) (m : Byte) (c : Bool) (h : i.mnemonic ∈ writersZN)
    (hc : i.mnemonic ∈ writersC) : FlagChange i f { f.setZN m with c := c } :=
  { FlagChange.setZN f m h with c := .inr hc }

theorem FlagChange.ofSum {i : Instr} (f : Flags) (r : Sum) (h : i.mnemonic ∈ writersZN) (hc : i.mnemonic ∈ writersC)
    (hv : i.mnemonic ∈ writersV) : FlagChange i f (f.ofSum r) :=
  { FlagChange.setZNC f r.result r.carry h hc with v := .inr hv }

theorem FlagChange.bitTest {i : Instr} (f : Flags) (a m : Byte) (h : i.mnemonic ∈ writersZN) (hv : i.mnemonic ∈ writersV) :
    FlagChange i f (f.bitTest a m) :=
  { FlagChange.refl i f with z := .inr h, n := .inr h, v := .inr hv }

theorem FlagChange.setC {i : Instr} (b : Bool) (f : Flags) (h : i.mnemonic ∈ writersC := by simp [Instr.mnemonic, writersC]) :
    FlagChange i f { f with c := b } := { FlagChange.refl i f with c := .inr h }

theorem FlagChange.setI {i : Instr} (b : Bool) (f : Flags) (h : i.mnemonic ∈ writersI := by simp [Instr.mnemonic, writersI]) :
    FlagChange i f { f with i := b } := { FlagChange.refl i f with i := .inr h }

theorem FlagChange.setD {i : Instr} (b : Bool) (f : Flags) (h : i.mnemonic ∈ writersD := by simp [Instr.mnemonic, writersD]) :
    FlagChange i f { f with d := b } := { FlagChange.refl i f with d := .inr h }

theorem FlagChange.clearV {i : Instr} (f : Flags) (h : i.mnemonic ∈ writersV := by simp [Instr.mnemonic, writersV]) :
    FlagChange i f { f with v := false } := { FlagChange.refl i f with v := .inr h }

theorem FlagChange.pulled {i : Instr} (f : Flags) (p : Byte) (h : i.mnemonic ∈ writersP) : FlagChange i f (Flags.pulled p) := by
  have hsub : writersP ⊆ writersC ∧ writersP ⊆ writersZN ∧ writersP ⊆ writersI ∧ writersP ⊆ writersD ∧
      writersP ⊆ writersV := by
    decide
  obtain ⟨hc, hzn, hi, hd, hv⟩ := hsub
  exact ⟨.inr (hc h), .inr (hzn h), .inr (hzn h), .inr (hi h), .inr (hd h), .inr (hv h), .inr h,
    fun _ => Flags.pulled_inv p⟩

/-! ### Changes of the processor alone -/

/-- The state changes in the processor alone, as the instruction may, and not in the stall counter. -/
structure CpuOnly (i : Instr) (s t : State) : Prop where
  eq : t = { s with cpu := t.cpu }
  change : CpuChange i s.cpu t.cpu
  stall : t.cpu.stall = s.cpu.stall

theorem CpuOnly.refl (i : Instr) (s : State) : CpuOnly i s s := ⟨rfl, .refl i _, rfl⟩

theorem CpuOnly.trans {i : Instr} {s t u : State} (h : CpuOnly i s t) (k : CpuOnly i t u) : CpuOnly i s u :=
  ⟨by rw [k.eq, h.eq], h.change.trans k.change, k.stall.trans h.stall⟩

theorem CpuOnly.keeps {i : Instr} {s t : State} (h : CpuOnly i s t) : Keeps s t := by
  rw [h.eq]
  exact Keeps.cpu s _ h.change.latch h.change.cycles h.change.flags.legal

section
variable {i : Instr} (s : State)

theorem CpuOnly.setPc (v : Word) : CpuOnly i s (s.setPc v) := ⟨rfl, { CpuChange.refl i s.cpu with }, rfl⟩

theorem CpuOnly.addCycles (n : Nat) : CpuOnly i s (s.addCycles n) :=
  ⟨rfl, { CpuChange.refl i s.cpu with cycles := Nat.le_add_right _ _ }, rfl⟩

theorem CpuOnly.advancePast (op : Byte) (crossed : Bool) : CpuOnly i s (advancePast op crossed s) :=
  (CpuOnly.setPc s _).trans (.addCycles _ _)

theorem CpuOnly.setFlags {f : Flags} (h : FlagChange i s.cpu.flags f) : CpuOnly i s (s.setFlags f) :=
  ⟨rfl, { CpuChange.refl i s.cpu with flags := h }, rfl⟩

theorem CpuOnly.setSp (v : Byte) (h : i.mnemonic ∈ writersSp := by simp [Instr.mnemonic, writersSp]) :
    CpuOnly i s (s.setSp v) :=
  ⟨rfl, { CpuChange.refl i s.cpu with sp := .inr h }, rfl⟩

theorem CpuOnly.loadA (m : Byte) (ha : i.mnemonic ∈ writersA := by simp [Instr.mnemonic, writersA])
    (hzn : i.mnemonic ∈ writersZN := by simp [Instr.mnemonic, writersZN]) :
    CpuOnly i s (loadA m s) :=
  ⟨rfl, { CpuChange.refl i s.cpu with a := .inr (.inl ha), flags := .setZN _ m hzn }, rfl⟩

theorem CpuOnly.loadX (m : Byte) (hx : i.mnemonic ∈ writersX := by simp [Instr.mnemonic, writersX])
    (hzn : i.mnemonic ∈ writersZN := by simp [Instr.mnemonic, writersZN]) :
    CpuOnly i s (loadX m s) :=
  ⟨rfl, { CpuChange.refl i s.cpu with x := .inr hx, flags := .setZN _ m hzn }, rfl⟩

theorem CpuOnly.loadY (m : Byte) (hy : i.mnemonic ∈ writersY := by simp [Instr.mnemonic, writersY])
    (hzn : i.mnemonic ∈ writersZN := by simp [Instr.mnemonic, writersZN]) :
    CpuOnly i s (loadY m s) :=
  ⟨rfl, { CpuChange.refl i s.cpu with y := .inr hy, flags := .setZN _ m hzn }, rfl⟩

theorem CpuOnly.applySum (sum : Byte → Byte → Bool → Sum) (m : Byte)
    (ha : i.mnemonic ∈ writersA := by simp [Instr.mnemonic, writersA])
    (hzn : i.mnemonic ∈ writersZN := by simp [Instr.mnemonic, writersZN])
    (hc : i.mnemonic ∈ writersC := by simp [Instr.mnemonic, writersC])
    (hv : i.mnemonic ∈ writersV := by simp [Instr.mnemonic, writersV]) : CpuOnly i s (applySum sum m s) :=
  ⟨rfl, { CpuChange.refl i s.cpu with a := .inr (.inl ha), flags := .ofSum _ _ hzn hc hv }, rfl⟩

theorem CpuOnly.applyCompare (reg : Cpu → Byte) (m : Byte)
    (hzn : i.mnemonic ∈ writersZN := by simp [Instr.mnemonic, writersZN])
    (hc : i.mnemonic ∈ writersC := by simp [Instr.mnemonic, writersC]) : CpuOnly i s (applyCompare reg m s) :=
  CpuOnly.setFlags s (.setZNC _ _ _ hzn hc)

theorem CpuOnly.bitTest (m : Byte) (hzn : i.mnemonic ∈ writersZN := by simp [Instr.mnemonic, writersZN])
    (hv : i.mnemonic ∈ writersV := by simp [Instr.mnemonic, writersV]) :
    CpuOnly i s (s.setFlags (s.cpu.flags.bitTest s.cpu.a m)) :=
  CpuOnly.setFlags s (.bitTest _ _ _ hzn hv)

theorem CpuOnly.shiftA (r : Shifted) (ha : i.operand = .accumulator := by rfl)
    (hs : i.mnemonic ∈ shiftMnemonics := by simp [Instr.mnemonic, shiftMnemonics])
    (hzn : i.mnemonic ∈ writersZN := by simp [Instr.mnemonic, writersZN])
    (hc : i.mnemonic ∈ writersC := by simp [Instr.mnemonic, writersC]) :
    CpuOnly i s ((s.setA r.result).setFlags (s.cpu.flags.ofShift r)) :=
  ⟨rfl, { CpuChange.refl i s.cpu with a := .inr (.inr ⟨hs, ha⟩), flags := .setZNC _ _ _ hzn hc }, rfl⟩

theorem CpuOnly.afterPull16 (h : i.mnemonic ∈ writersSp := by simp [Instr.mnemonic, writersSp]) : CpuOnly i s s.afterPull16 :=
  (CpuOnly.setSp s _ h).trans (.setSp _ _ h)

/-- PLA (R432). -/
theorem CpuOnly.pulledA (hsp : i.mnemonic ∈ writersSp := by simp [Instr.mnemonic, writersSp])
    (ha : i.mnemonic ∈ writersA := by simp [Instr.mnemonic, writersA])
    (hzn : i.mnemonic ∈ writersZN := by simp [Instr.mnemonic, writersZN]) :
    CpuOnly i s (Machine.loadA s.pulledByte s.afterPull) := (CpuOnly.setSp s _ hsp).trans (.loadA _ _ ha hzn)

/-- PLP (R433). -/
theorem CpuOnly.pulledFlags (hsp : i.mnemonic ∈ writersSp := by simp [Instr.mnemonic, writersSp])
    (hp : i.mnemonic ∈ writersP := by simp [Instr.mnemonic, writersP]) :
    CpuOnly i s (s.afterPull.setFlags (Flags.pulled s.pulledByte)) :=
  (CpuOnly.setSp s _ hsp).trans (.setFlags _ (.pulled _ _ hp))

theorem CpuOnly.takeBranch (ea : Word) : CpuOnly i s (takeBranch ea s) := (CpuOnly.addCycles s _).trans (.setPc _ ea)

end

/-! ### Pushes -/

/-- The RAM index is one of the stack slots the instruction pushes to, from the stack pointer down. -/
def PushSlot (i : Instr) (sp : Byte) (k : Nat) : Prop :=
  k = slot sp ∨ (i.mnemonic ∈ ["JSR", "BRK"] ∧ k = slot (sp - 1)) ∨ (i.mnemonic = "BRK" ∧ k = slot (sp - 2))

/-- The state changes in the processor and in the stack slots the instruction pushes to. -/
structure Pushes (i : Instr) (s t : State) : Prop where
  eq : t = { s with ram := t.ram, cpu := t.cpu }
  change : CpuChange i s.cpu t.cpu
  stall : t.cpu.stall = s.cpu.stall
  ram : Sparse.Inv 0x800 s.ram → Sparse.Inv 0x800 t.ram
  other : ∀ k, ¬ PushSlot i s.cpu.sp k → Sparse.read t.ram k = Sparse.read s.ram k

theorem slot_lt (sp : Byte) : slot sp < 0x800 := by have := slot_mem_page1 sp; omega

theorem Pushes.keeps {i : Instr} {s t : State} (h : Pushes i s t) : Keeps s t := by
  have hcpu : Keeps s { s with cpu := t.cpu } :=
    Keeps.cpu s _ h.change.latch h.change.cycles h.change.flags.legal
  rw [h.eq]
  exact ⟨⟨h.change.latch, h.change.cycles, rfl, rfl, rfl, rfl, rfl, rfl, rfl, rfl, rfl, rfl⟩, fun hi =>
    ⟨(hcpu.2 hi).flags, h.ram hi.ram, hi.port1, hi.port2, hi.ppu, hi.cart, hi.halted⟩⟩

theorem Pushes.push {i : Instr} (s : State) (v : Byte) (h : i.mnemonic ∈ writersSp := by simp [Instr.mnemonic, writersSp]) :
    Pushes i s (s.push v) := by
  rw [State.push_eq]
  exact ⟨rfl, { CpuChange.refl i s.cpu with sp := .inr h }, rfl, fun hr => hr.write (slot_lt _) v,
    fun k hk => Sparse.read_write_other _ _ fun h => hk (.inl h)⟩

theorem Pushes.jsr (addr ea : Word) (s : State) : Pushes (.jsr addr) s ((s.push16 (s.cpu.pc - 1)).setPc ea) := by
  rw [State.push16_eq]
  refine ⟨rfl, { CpuChange.refl _ s.cpu with sp := .inr (by simp [Instr.mnemonic, writersSp]) }, rfl,
    fun hr => (hr.write (slot_lt _) _).write (slot_lt _) _, fun k hk => ?_⟩
  have h1 : k ≠ slot (s.cpu.sp - 1) := fun h => hk (.inr (.inl ⟨by simp [Instr.mnemonic], h⟩))
  have h0 : k ≠ slot s.cpu.sp := fun h => hk (.inl h)
  exact (Sparse.read_write_other _ _ h1).trans (Sparse.read_write_other _ _ h0)

theorem Pushes.brk (s : State) : Pushes .brk s (takeException irqVector s) := by
  rw [takeException_eq]
  refine ⟨rfl, { CpuChange.refl _ s.cpu with
      sp := .inr (by decide), flags := { FlagChange.refl _ s.cpu.flags with i := .inr (by decide) } }, rfl,
    fun hr => ((hr.write (slot_lt _) _).write (slot_lt _) _).write (slot_lt _) _, fun k hk => ?_⟩
  have h2 : k ≠ slot (s.cpu.sp - 2) := fun h => hk (.inr (.inr ⟨rfl, h⟩))
  have h1 : k ≠ slot (s.cpu.sp - 1) := fun h => hk (.inr (.inl ⟨by decide, h⟩))
  have h0 : k ≠ slot s.cpu.sp := fun h => hk (.inl h)
  exact (Sparse.read_write_other _ _ h2).trans
    ((Sparse.read_write_other _ _ h1).trans (Sparse.read_write_other _ _ h0))

/-! ### The shapes of the meanings -/

/-- The instruction stores nothing to its operand's address and pushes nothing. -/
structure Storeless (i : Instr) : Prop where
  notStores : ¬ storesToEa i
  notPushes : i.mnemonic ∉ pushers

/-- The instruction stores to its operand's address, which `resolve` gives without side effects. -/
structure Storing (i : Instr) : Prop where
  stores : storesToEa i
  notPushes : i.mnemonic ∉ pushers
  direct : ∀ p, i.operand ≠ .indirect p

/-- The instruction pushes, and its operand has no pointer to read. -/
structure Pushing (i : Instr) : Prop where
  notStores : ¬ storesToEa i
  pushes : i.mnemonic ∈ pushers
  direct : ∀ p, i.operand ≠ .indirect p

theorem Storeless.ofMnemonic {i : Instr} (hs : i.mnemonic ∉ storers := by simp [Instr.mnemonic, storers])
    (hp : i.mnemonic ∉ pushers := by simp [Instr.mnemonic, pushers]) : Storeless i := ⟨fun h => hs h.1, hp⟩

/-- The accumulator form of a shift stores nothing. -/
theorem Storeless.ofAccumulator {i : Instr} (ha : i.operand = .accumulator := by rfl)
    (hp : i.mnemonic ∉ pushers := by simp [Instr.mnemonic, pushers]) : Storeless i := ⟨fun h => h.2 ha, hp⟩

theorem Storing.ofMnemonic {i : Instr} (ha : i.operand ≠ .accumulator) (hd : ∀ p, i.operand ≠ .indirect p)
    (hs : i.mnemonic ∈ storers := by simp [Instr.mnemonic, storers])
    (hp : i.mnemonic ∉ pushers := by simp [Instr.mnemonic, pushers]) : Storing i := ⟨⟨hs, ha⟩, hp, hd⟩

theorem Pushing.ofMnemonic {i : Instr} (hd : ∀ p, i.operand ≠ .indirect p)
    (hs : i.mnemonic ∉ storers := by simp [Instr.mnemonic, storers])
    (hp : i.mnemonic ∈ pushers := by simp [Instr.mnemonic, pushers]) : Pushing i := ⟨fun h => hs h.1, hp, hd⟩

/-- The handlers of the meanings, by what they do: a read of `M` and a change of the processor, such a change alone, a push, a
store, or a read-modify-write. -/
inductive Shape (i : Instr) : (Word → State → Res Unit) → Prop
  | reads {f : Byte → State → State} (hi : Storeless i) (hf : ∀ m s, CpuOnly i s (f m s)) : Shape i (readingM i.operand f)
  | changes {f : Word → State → State} (hi : Storeless i) (hf : ∀ ea s, CpuOnly i s (f ea s)) :
      Shape i fun ea s => .ok () (f ea s)
  | pushes {f : Word → State → State} (hi : Pushing i) (hf : ∀ ea s, Pushes i s (f ea s)) :
      Shape i fun ea s => .ok () (f ea s)
  | stores {f : State → Byte} (hi : Storing i) : Shape i (storing f)
  | modifies {r : Bool → Byte → Byte} {g : Flags → Byte → Flags} (hi : Storing i)
      (hg : ∀ f m, FlagChange i f (g f m)) : Shape i (modifying r g)

theorem CpuOnly.returnFromException (s : State) : CpuOnly .rti s (returnFromException s) := by
  rw [returnFromException_eq]
  exact ⟨rfl, { CpuChange.refl _ s.cpu with
    sp := .inr (by decide), flags := .pulled _ _ (by decide) }, rfl⟩

theorem Shape.branching {i : Instr} (hi : Storeless i) (cond : Flags → Bool) : Shape i (branching cond) := by
  refine .changes (f := fun ea s => if cond s.cpu.flags then takeBranch ea s else s) hi fun ea s => ?_
  split
  · exact .takeBranch s ea
  · exact .refl i s

theorem Shape.shifting {i : Instr} {o : ShiftOperand} (op : Bool → Byte → Shifted) (ho : i.operand = o.toOperand := by rfl)
    (hm : i.mnemonic ∈ shiftMnemonics := by simp [Instr.mnemonic, shiftMnemonics]) : Shape i (shifting op o) := by
  have hlists : shiftMnemonics ⊆ storers ∧ shiftMnemonics ⊆ writersZN ∧ shiftMnemonics ⊆ writersC ∧
      ∀ m ∈ shiftMnemonics, m ∉ pushers := by decide
  obtain ⟨hstorers, hzn, hc, hpushers⟩ := hlists
  cases o with
  | accumulator =>
    exact .changes (f := fun _ s => (s.setA (op s.cpu.flags.c s.cpu.a).result).setFlags
        (s.cpu.flags.ofShift (op s.cpu.flags.c s.cpu.a)))
      (.ofAccumulator ho (hpushers _ hm)) fun _ s => .shiftA s _ ho hm (hzn hm) (hc hm)
  | _ =>
    exact .modifies (r := fun c m => (op c m).result) (g := fun f m => f.ofShift (op f.c m))
      (.ofMnemonic (ho ▸ nofun) (ho ▸ nofun) (hstorers hm) (hpushers _ hm)) fun f _ => .setZNC f _ _ (hzn hm) (hc hm)

/-- A label's meaning makes no access but its mode's, and changes nothing (46_undocumented.md R481). -/
theorem exec_undocumented {i : Instr} (h : i.undoc.isSome = true) (s : State) : exec i s = undocumented i s := by
  cases i with
  | kil | nopUndoc | slo | rla | sre | rra | dcp | isc | sax | lax | anc | alr | arr | xaa | axs | sbcUndoc | ahx
    | shy | shx | tas | las => rfl
  | _ => cases h

theorem undocumented_refused {i : Instr} {s : State} (h : s.cfg.undocMode = .refuse) :
    undocumented i s = .refused (.undocumentedOpcode s.cpu.pc i.opcode) := by rw [undocumented, h]

theorem undocumented_noop {i : Instr} {s : State} (h : s.cfg.undocMode = .noop) :
    undocumented i s = perform i s (changing id) := by rw [undocumented, h]

theorem Shape.changing {i : Instr} {f : State → State} (hi : Storeless i) (hf : ∀ s, CpuOnly i s (f s)) :
    Shape i (changing f) := .changes hi fun _ => hf

theorem Shape.changingFlags {i : Instr} {f : Flags → Flags} (hi : Storeless i) (hf : ∀ fl, FlagChange i fl (f fl)) :
    Shape i (changingFlags f) := .changing hi fun s => .setFlags s (hf s.cpu.flags)

theorem Shape.pushing {i : Instr} {f : State → State} (hi : Pushing i) (hf : ∀ s, Pushes i s (f s)) :
    Shape i (Machine.changing f) := .pushes hi fun _ => hf

/-- The meaning of a documented instruction is one of the shapes inside `perform`. -/
theorem shape_of_documented {i : Instr} (h : i.undoc = none) : ∃ k, (∀ s, exec i s = perform i s k) ∧ Shape i k := by
  cases i with
  | lda o => exact ⟨_, fun _ => rfl, .reads .ofMnemonic fun m s => .loadA s m⟩
  | ldx o => exact ⟨_, fun _ => rfl, .reads .ofMnemonic fun m s => .loadX s m⟩
  | ldy o => exact ⟨_, fun _ => rfl, .reads .ofMnemonic fun m s => .loadY s m⟩
  | sta o => exact ⟨_, fun _ => rfl, .stores (.ofMnemonic (by cases o <;> nofun) (by cases o <;> nofun))⟩
  | stx o => exact ⟨_, fun _ => rfl, .stores (.ofMnemonic (by cases o <;> nofun) (by cases o <;> nofun))⟩
  | sty o => exact ⟨_, fun _ => rfl, .stores (.ofMnemonic (by cases o <;> nofun) (by cases o <;> nofun))⟩
  | tax => exact ⟨_, fun _ => rfl, .changing .ofMnemonic fun s => .loadX s s.cpu.a⟩
  | tay => exact ⟨_, fun _ => rfl, .changing .ofMnemonic fun s => .loadY s s.cpu.a⟩
  | txa => exact ⟨_, fun _ => rfl, .changing .ofMnemonic fun s => .loadA s s.cpu.x⟩
  | tya => exact ⟨_, fun _ => rfl, .changing .ofMnemonic fun s => .loadA s s.cpu.y⟩
  | tsx => exact ⟨_, fun _ => rfl, .changing .ofMnemonic fun s => .loadX s s.cpu.sp⟩
  | txs => exact ⟨_, fun _ => rfl, .changing .ofMnemonic fun s => .setSp s s.cpu.x⟩
  | adc o => exact ⟨_, fun _ => rfl, .reads .ofMnemonic fun m s => .applySum s _ m⟩
  | sbc o => exact ⟨_, fun _ => rfl, .reads .ofMnemonic fun m s => .applySum s _ m⟩
  | and o => exact ⟨_, fun _ => rfl, .reads .ofMnemonic fun _ s => .loadA s _⟩
  | ora o => exact ⟨_, fun _ => rfl, .reads .ofMnemonic fun _ s => .loadA s _⟩
  | eor o => exact ⟨_, fun _ => rfl, .reads .ofMnemonic fun _ s => .loadA s _⟩
  | bit o => exact ⟨_, fun _ => rfl, .reads .ofMnemonic fun m s => .bitTest s m⟩
  | cmp o => exact ⟨_, fun _ => rfl, .reads .ofMnemonic fun m s => .applyCompare s _ m⟩
  | cpx o => exact ⟨_, fun _ => rfl, .reads .ofMnemonic fun m s => .applyCompare s _ m⟩
  | cpy o => exact ⟨_, fun _ => rfl, .reads .ofMnemonic fun m s => .applyCompare s _ m⟩
  | inc o =>
    exact ⟨_, fun _ => rfl, .modifies (.ofMnemonic (by cases o <;> nofun) (by cases o <;> nofun)) fun f _ => .setZN f _⟩
  | dec o =>
    exact ⟨_, fun _ => rfl, .modifies (.ofMnemonic (by cases o <;> nofun) (by cases o <;> nofun)) fun f _ => .setZN f _⟩
  | inx => exact ⟨_, fun _ => rfl, .changing .ofMnemonic fun s => .loadX s (s.cpu.x + 1)⟩
  | iny => exact ⟨_, fun _ => rfl, .changing .ofMnemonic fun s => .loadY s (s.cpu.y + 1)⟩
  | dex => exact ⟨_, fun _ => rfl, .changing .ofMnemonic fun s => .loadX s (s.cpu.x - 1)⟩
  | dey => exact ⟨_, fun _ => rfl, .changing .ofMnemonic fun s => .loadY s (s.cpu.y - 1)⟩
  | asl o => exact ⟨_, fun _ => rfl, .shifting _⟩
  | lsr o => exact ⟨_, fun _ => rfl, .shifting _⟩
  | rol o => exact ⟨_, fun _ => rfl, .shifting _⟩
  | ror o => exact ⟨_, fun _ => rfl, .shifting _⟩
  | bcc off => exact ⟨_, fun _ => rfl, .branching .ofMnemonic fun f => !f.c⟩
  | bcs off => exact ⟨_, fun _ => rfl, .branching .ofMnemonic fun f => f.c⟩
  | beq off => exact ⟨_, fun _ => rfl, .branching .ofMnemonic fun f => f.z⟩
  | bmi off => exact ⟨_, fun _ => rfl, .branching .ofMnemonic fun f => f.n⟩
  | bne off => exact ⟨_, fun _ => rfl, .branching .ofMnemonic fun f => !f.z⟩
  | bpl off => exact ⟨_, fun _ => rfl, .branching .ofMnemonic fun f => !f.n⟩
  | bvc off => exact ⟨_, fun _ => rfl, .branching .ofMnemonic fun f => !f.v⟩
  | bvs off => exact ⟨_, fun _ => rfl, .branching .ofMnemonic fun f => f.v⟩
  | jmp o => exact ⟨_, fun _ => rfl, .changes .ofMnemonic fun ea s => .setPc s ea⟩
  | jsr addr => exact ⟨_, fun _ => rfl, .pushes (.ofMnemonic nofun) fun ea s => .jsr addr ea s⟩
  | rts => exact ⟨_, fun _ => rfl, .changing .ofMnemonic fun s => (CpuOnly.afterPull16 s).trans (.setPc _ (s.pulledWord + 1))⟩
  | pha => exact ⟨_, fun _ => rfl, .pushing (.ofMnemonic nofun) fun s => .push s s.cpu.a⟩
  | php => exact ⟨_, fun _ => rfl, .pushing (.ofMnemonic nofun) fun s => .push s s.cpu.flags.pushed⟩
  | pla => exact ⟨_, fun _ => rfl, .changing .ofMnemonic .pulledA⟩
  | plp => exact ⟨_, fun _ => rfl, .changing .ofMnemonic .pulledFlags⟩
  | clc => exact ⟨_, fun _ => rfl, .changingFlags .ofMnemonic (.setC false)⟩
  | cld => exact ⟨_, fun _ => rfl, .changingFlags .ofMnemonic (.setD false)⟩
  | cli => exact ⟨_, fun _ => rfl, .changingFlags .ofMnemonic (.setI false)⟩
  | clv => exact ⟨_, fun _ => rfl, .changingFlags .ofMnemonic .clearV⟩
  | sec => exact ⟨_, fun _ => rfl, .changingFlags .ofMnemonic (.setC true)⟩
  | sed => exact ⟨_, fun _ => rfl, .changingFlags .ofMnemonic (.setD true)⟩
  | sei => exact ⟨_, fun _ => rfl, .changingFlags .ofMnemonic (.setI true)⟩
  | brk => exact ⟨_, fun _ => rfl, .pushing (.ofMnemonic nofun) fun s => .brk s⟩
  | rti => exact ⟨_, fun _ => rfl, .changing .ofMnemonic fun s => .returnFromException s⟩
  | nop => exact ⟨_, fun _ => rfl, .changing .ofMnemonic fun s => .refl _ s⟩
  | _ => cases h

theorem storeless_of_undocumented {i : Instr} (h : i.undoc.isSome = true) : Storeless i := by
  cases i with
  | kil | nopUndoc | slo | rla | sre | rra | dcp | isc | sax | lax | anc | alr | arr | xaa | axs | sbcUndoc | ahx
    | shy | shx | tas | las => exact .ofMnemonic
  | _ => cases h

/-- An instruction is refused, as an undocumented one with `UNDOC_MODE = refuse`, or is a shape inside `perform`. -/
theorem exec_shape (i : Instr) (s : State) :
    (i.undoc.isSome = true ∧ s.cfg.undocMode = .refuse ∧ exec i s = .refused (.undocumentedOpcode s.cpu.pc i.opcode)) ∨
      ∃ k, Shape i k ∧ exec i s = perform i s k := by
  cases hu : i.undoc with
  | none =>
    obtain ⟨k, hexec, hk⟩ := shape_of_documented hu
    exact .inr ⟨k, hk, hexec s⟩
  | some _ =>
    have hsome : i.undoc.isSome = true := by rw [hu]; rfl
    rw [exec_undocumented hsome]
    cases hmode : s.cfg.undocMode with
    | refuse => exact .inl ⟨rfl, rfl, undocumented_refused hmode⟩
    | noop => exact .inr ⟨_, .changes (f := fun _ s => s) (storeless_of_undocumented hsome) fun _ s => .refl i s,
        undocumented_noop hmode⟩

end Sys2Proof.Machine
end

section
/-! SUPPORT. What an answer and a fault of an instruction and of a step are, from the shapes of the meanings; the whole-machine
rules on the processor, the faults and the invariant settled by it (60_exceptions.md R500, R520 to R523, 10_state.md R31 to
R38). -/

namespace Sys2Proof.Machine

open Sys2Proof.Claim

/-! ### Handlers keep the frame and the invariant -/

theorem Shape.keeps {i : Instr} {k : Word → State → Res Unit} (h : Shape i k) : HandlerKeeps k := by
  cases h with
  | reads _ hf => exact readingM_keeps _ fun m s => (hf m s).keeps
  | changes _ hf => rintro ea s t ⟨⟩; exact (hf ea s).keeps
  | pushes _ hf => rintro ea s t ⟨⟩; exact (hf ea s).keeps
  | stores => exact storing_keeps _
  | modifies _ hg => exact modifying_keeps _ fun f m => (hg f m).legal

/-- What an answer of `exec` says: a shape inside `perform` answered. -/
theorem exec_next {i : Instr} {s t : State} (h : exec i s = .next t) : ∃ k, Shape i k ∧ perform i s k = .next t := by
  rcases exec_shape i s with ⟨_, _, hr⟩ | ⟨k, hk, he⟩
  · rw [hr] at h; cases h
  · exact ⟨k, hk, he ▸ h⟩

theorem exec_keeps {i : Instr} {s t : State} (h : exec i s = .next t) : Keeps s t := by
  obtain ⟨k, hk, hp⟩ := exec_next h
  exact perform_keeps hk.keeps hp

/-! ### Cycles -/

/-- Every row charges a cycle, the undocumented ones by the bound of log 2 (40_execution_addressing.md R200). -/
theorem opBaseCycles_pos (op : Byte) : 0 < opBaseCycles op := by
  have hrows : ∀ r ∈ opTable, r.documented = true → 0 < r.baseCycles := by decide +kernel
  unfold opBaseCycles
  split
  · exact hrows _ (opRow_mem op) ‹_›
  · exact Nat.succ_pos _

theorem exec_cycles_lt {i : Instr} {s t : State} (h : exec i s = .next t) : s.cpu.cycles < t.cpu.cycles := by
  obtain ⟨k, hk, hp⟩ := exec_next h
  have hcharged := perform_cycles hk.keeps hp
  have hpos := opBaseCycles_pos i.opcode
  omega

/-! ### The three kinds of answer -/

/-- An answer that stores and pushes nothing: reads' side effects, and a change of the processor that leaves the stall counter. -/
structure Quiet (i : Instr) (s t : State) : Prop where
  change : CpuChange i s.cpu t.cpu
  stall : t.cpu.stall = s.cpu.stall
  reads : ReadFrame { s with cpu := t.cpu } t

theorem Quiet.ofRead {i : Instr} {s t : State} (h : ReadFrame s t) : Quiet i s t :=
  ⟨h.cpu ▸ .refl i _, by rw [h.cpu], by rw [h.cpu]; exact h⟩

theorem Quiet.ofCpuOnly {i : Instr} {s t : State} (h : CpuOnly i s t) : Quiet i s t :=
  ⟨h.change, h.stall, h.eq ▸ .refl _⟩

theorem ReadFrame.withCpu {s t : State} (c c' : Cpu) (h : ReadFrame { s with cpu := c } t) :
    ReadFrame { s with cpu := c' } { t with cpu := c' } :=
  ⟨rfl, h.ram, h.cart, h.halted, h.faultRecord, h.cfg, h.port1, h.port2, h.ppu⟩

theorem Quiet.trans {i : Instr} {s t u : State} (h : Quiet i s t) (k : Quiet i t u) : Quiet i s u :=
  ⟨h.change.trans k.change, k.stall.trans h.stall, (h.reads.withCpu _ u.cpu).trans k.reads⟩

/-- A store at the effective address: what was read there before, the write, and the flags after it. -/
structure StoresAt (i : Instr) (s t : State) : Prop where
  storing : Storing i
  write : ∃ s1 s2 v, (s1 = s.advanced i ∨ ∃ m, memRead (s.ea i.operand) (s.advanced i) = .ok m s1) ∧
    memWrite (s.ea i.operand) v s1 = .ok () s2 ∧ ∃ f, t = s2.setFlags f ∧ FlagChange i s2.cpu.flags f

/-- An answer of an instruction is quiet, a push, or a store. -/
inductive Answer (i : Instr) (s t : State) : Prop
  | quiet (hi : Storeless i) (h : Quiet i s t)
  | pushes (hi : Pushing i) (h : Pushes i (s.advanced i) t)
  | stores (h : StoresAt i s t)

theorem operandByte_readFrame {o : Operand} {ea : Word} {s t : State} {b : Byte} (h : operandByte o ea s = .ok b t) :
    ReadFrame s t := by
  unfold operandByte at h
  split at h
  · cases h; exact .refl s
  · exact memRead_frame h

theorem Res.conclude_next {op : Byte} {r : Res Unit} {t : State} (h : r.conclude op = .next t) : r = .ok () t := by
  cases r with
  | ok _ s => cases h; rfl
  | fault e s => cases h

theorem exec_answer {i : Instr} {s t : State} (h : exec i s = .next t) : Answer i s t := by
  obtain ⟨k, hk, hp⟩ := exec_next h
  cases hk with
  | reads hi hf =>
    obtain ⟨e, s1, hresolve, hrun⟩ := perform_next hp
    obtain ⟨m, s2, hread, hlast⟩ := Res.andThen_ok.mp hrun
    cases hlast
    exact .quiet hi ((((Quiet.ofRead (resolve_frame hresolve)).trans (.ofCpuOnly (.advancePast s1 _ _))).trans
      (.ofRead (operandByte_readFrame hread))).trans (.ofCpuOnly (hf m s2)))
  | changes hi hf =>
    obtain ⟨e, s1, hresolve, hrun⟩ := perform_next hp
    cases hrun
    exact .quiet hi (((Quiet.ofRead (resolve_frame hresolve)).trans (.ofCpuOnly (.advancePast s1 _ _))).trans
      (.ofCpuOnly (hf _ _)))
  | pushes hi hf =>
    rw [perform_eq s _ hi.direct] at hp
    cases Res.conclude_next hp
    exact .pushes hi (hf _ _)
  | stores hi =>
    rw [perform_eq s _ hi.direct] at hp
    exact .stores ⟨hi, _, t, _, .inl rfl, Res.conclude_next hp, t.cpu.flags, rfl, .refl i _⟩
  | modifies hi hg =>
    rw [perform_eq s _ hi.direct] at hp
    obtain ⟨m, s1, hread, hrest⟩ := Res.andThen_ok.mp (Res.conclude_next hp)
    obtain ⟨⟨⟩, s2, hwrite, hlast⟩ := Res.andThen_ok.mp hrest
    cases hlast
    exact .stores ⟨hi, s1, s2, _, .inr ⟨m, hread⟩, hwrite, _, rfl, hg _ m⟩

/-! ### The processor after an answer -/

theorem CpuChange.advanced (i : Instr) (s : State) : CpuChange i s.cpu (s.advanced i).cpu :=
  { CpuChange.refl i s.cpu with cycles := by simp only [State.advanced]; omega }

/-- A store leaves the processor but for its stall counter, so the instruction's change is that of step 5 and of the flags. -/
theorem StoresAt.change {i : Instr} {s t : State} (h : StoresAt i s t) : CpuChange i s.cpu t.cpu := by
  obtain ⟨s1, s2, v, hread, hwrite, f, rfl, hf⟩ := h.write
  have hcpu1 : s1.cpu = (s.advanced i).cpu := by
    rcases hread with rfl | ⟨m, hm⟩
    · rfl
    · exact (memRead_frame hm).cpu
  obtain ⟨n, hcpu2⟩ := ((memWrite_spec _ _ _).1 s2 hwrite).1.cpu
  have hwritten : CpuChange i s1.cpu s2.cpu := by rw [hcpu2]; exact { CpuChange.refl i s1.cpu with }
  have hflags : CpuChange i s2.cpu (s2.setFlags f).cpu := { CpuChange.refl i s2.cpu with flags := hf }
  exact (CpuChange.advanced i s).trans ((hcpu1 ▸ hwritten).trans hflags)

theorem exec_cpuChange {i : Instr} {s t : State} (h : exec i s = .next t) : CpuChange i s.cpu t.cpu := by
  cases exec_answer h with
  | quiet _ h => exact h.change
  | pushes _ h => exact (CpuChange.advanced i s).trans h.change
  | stores h => exact h.change

/-- Settles O32: the change of the processor that every answer makes. -/
theorem onlyListedInstructionsWriteRegistersAndFlags : Obligations.OnlyListedInstructionsWriteRegistersAndFlags := by
  unfold Obligations.OnlyListedInstructionsWriteRegistersAndFlags
  refine ⟨fun i s t h => ?registers, fun i s t h => ?flags⟩
  case registers =>
    have hc := exec_cpuChange h
    exact ⟨hc.a, hc.x, hc.y, hc.sp⟩
  case flags =>
    have hf := (exec_cpuChange h).flags
    exact ⟨hf.c, hf.z, hf.n, hf.i, hf.d, hf.v, hf.bu⟩

/-! ### The stall counter -/

theorem dmaStall_cases (cfg : Config) (cycles : Nat) : dmaStall cfg cycles = 513 ∨ dmaStall cfg cycles = 514 := by
  unfold dmaStall
  split <;> split <;> simp

/-- An answering DMA adds its stall to a processor that the copy leaves alone (20_memory.md R130). -/
theorem oamDma_cpu {v : Byte} {s t : State} (h : oamDma v s = .ok () t) :
    t.cpu = { s.cpu with stall := s.cpu.stall + dmaStall s.cfg s.cpu.cycles } := by
  obtain ⟨_, s1, hcopy, hlast⟩ := Res.andThen_ok.mp h
  obtain ⟨hframe, hcpu⟩ := (oamCopy_frame _ _ s).1 s1 hcopy
  cases hlast
  simp only [hcpu, hframe.cfg]

/-- The cases of an answering write (20_memory.md R110). -/
inductive WriteCase (a : Word) (v : Byte) (s t : State) : Prop
  | ram (ha : a.toNat < 0x2000) (ht : t = s.writeRam a v)
  | pictureRegister (hlo : 0x2000 ≤ a.toNat) (hhi : a.toNat < 0x4000) (ht : t = ppuRegWrite (a.toNat % 8) v s)
  | dma (ha : a.toNat = 0x4014) (ht : oamDma v s = .ok () t)
  | controllerOne (ha : a.toNat = 0x4016) (ht : t = controllerWrite .one v s)
  | controllerTwo (ha : a.toNat = 0x4017) (ht : t = controllerWrite .two v s)
  | sink (hlo : 0x4000 ≤ a.toNat) (hhi : a.toNat < 0x6000) (ht : t = s)
  | saveRam (hlo : 0x6000 ≤ a.toNat) (hhi : a.toNat < 0x8000)
      (ht : t = { s with cart := { s.cart with sram := Sparse.write s.cart.sram (a.toNat - 0x6000) v } })
  | register (hlo : 0x8000 ≤ a.toNat) (ht : t = { s with cart := s.cart.registerWrite a.toNat v })

theorem memWrite_case {a : Word} {v : Byte} {s t : State} (h : memWrite a v s = .ok () t) : WriteCase a v s t := by
  have hcart (ha : 0x6000 ≤ a.toNat) : WriteCase a v s t := by
    by_cases hs : a.toNat < 0x8000
    · rw [memWrite_cart ha (s.cart.write_sram v ha hs)] at h
      cases h
      exact .saveRam ha hs rfl
    · rw [memWrite_cart ha (s.cart.write_register v (by omega))] at h
      cases h
      exact .register (by omega) rfl
  by_cases hm : 0x6000 ≤ a.toNat
  · exact hcart hm
  · unfold memWrite at h
    dsimp only at h
    split at h
    case isTrue ha => cases h; exact .ram ha rfl
    split at h
    case isTrue hlo hhi => cases h; exact .pictureRegister (by omega) hhi rfl
    split at h
    case isTrue ha => exact .dma ha h
    split at h
    case isTrue ha => cases h; exact .controllerOne ha rfl
    split at h
    case isTrue ha => cases h; exact .controllerTwo ha rfl
    split at h
    case isTrue ha => cases h; exact .sink (by omega) (by omega) rfl
    split at h
    case isTrue ha => cases h; exact .sink (by omega) (by omega) rfl
    rw [s.cart.write_none v (by omega) (by omega)] at h
    cases h

/-- A picture-space write reaches the picture unit and the pattern array alone (20_memory.md R120). -/
theorem ppuWrite_reaches (s : State) (a : Nat) (v : Byte) :
    ∃ p chr, ppuWrite s a v = { s with ppu := p, cart := { s.cart with chr := chr } } := by
  unfold ppuWrite
  dsimp only
  split
  · exact ⟨s.ppu, _, rfl⟩
  · split <;> exact ⟨_, s.cart.chr, rfl⟩

/-- So does a picture register write. -/
theorem ppuRegWrite_reaches (r : Nat) (b : Byte) (s : State) :
    ∃ p chr, ppuRegWrite r b s = { s with ppu := p, cart := { s.cart with chr := chr } } := by
  unfold ppuRegWrite
  dsimp only
  split
  case h_7 =>
    obtain ⟨p, chr, h⟩ := ppuWrite_reaches { s with ppu := { s.ppu with lastWrite := b } } s.ppu.v.toNat b
    exact ⟨p.stepAddress, chr, by simp only [ppuDataWrite, h]⟩
  all_goals exact ⟨_, s.cart.chr, rfl⟩

/-- A write reaches the processor by the DMA alone. -/
theorem memWrite_cpu {a : Word} {v : Byte} {s t : State} (h : memWrite a v s = .ok () t) :
    t.cpu = s.cpu ∨ (a = 0x4014#16 ∧ t.cpu = { s.cpu with stall := s.cpu.stall + dmaStall s.cfg s.cpu.cycles }) := by
  cases memWrite_case h with
  | dma ha ht => exact .inr ⟨BitVec.eq_of_toNat_eq ha, oamDma_cpu ht⟩
  | pictureRegister _ _ ht =>
    obtain ⟨p, chr, hreach⟩ := ppuRegWrite_reaches (a.toNat % 8) v s
    exact .inl (by rw [ht, hreach])
  | ram _ ht | controllerOne _ ht | controllerTwo _ ht | sink _ _ ht | saveRam _ _ ht | register _ ht =>
    exact .inl (by subst ht; rfl)

/-- The stall counter grows by a store to the DMA register alone (R42, R130). -/
theorem StoresAt.stall {i : Instr} {s t : State} (h : StoresAt i s t) :
    t.cpu.stall = s.cpu.stall ∨
      (s.ea i.operand = 0x4014#16 ∧ (t.cpu.stall = s.cpu.stall + 513 ∨ t.cpu.stall = s.cpu.stall + 514)) := by
  obtain ⟨s1, s2, v, hread, hwrite, f, rfl, -⟩ := h.write
  have hstall : s1.cpu.stall = s.cpu.stall := by
    rcases hread with rfl | ⟨m, hm⟩
    · rfl
    · rw [(memRead_frame hm).cpu]; rfl
  rw [State.setFlags_cpu]
  rcases memWrite_cpu hwrite with hcpu | ⟨ha, hcpu⟩
  · exact .inl (by rw [hcpu, hstall])
  · have hcases := dmaStall_cases s1.cfg s1.cpu.cycles
    exact .inr ⟨ha, by rw [hcpu]; dsimp only; omega⟩

theorem exec_stall {i : Instr} {s t : State} (h : exec i s = .next t) :
    t.cpu.stall = s.cpu.stall ∨ (storesToEa i ∧ s.ea i.operand = 0x4014#16 ∧
      (t.cpu.stall = s.cpu.stall + 513 ∨ t.cpu.stall = s.cpu.stall + 514)) := by
  cases exec_answer h with
  | quiet _ h => exact .inl h.stall
  | pushes _ h => exact .inl h.stall
  | stores h => exact h.stall.imp id fun hdma => ⟨h.storing.stores, hdma⟩

/-- Settles O31: the frame of every meaning, the cycles of its row, and the stall of each kind of answer. -/
theorem noInstructionTouchesLatchOrProgram : Obligations.NoInstructionTouchesLatchOrProgram := by
  unfold Obligations.NoInstructionTouchesLatchOrProgram
  intro i s t h
  obtain ⟨hf, -⟩ := exec_keeps h
  exact ⟨hf.latch, hf.prg, hf.dot, hf.scanline, hf.frame, hf.f, hf.front, hf.back, hf.halted, hf.faultRecord, hf.cfg,
    exec_cycles_lt h, exec_stall h⟩

/-! ### Faults of the bus -/

/-- A fault `e` taken in the state `u`, met from `s`: the address is unmapped, and the earlier effects keep the invariant
(60_exceptions.md R521). -/
structure FaultAt (s : State) (e : BusFault) (u : State) : Prop where
  unmapped : ¬ s.mapped e.address
  inv : s.Inv → u.Inv

theorem FaultAt.ofKeeps {s t u : State} {e : BusFault} (h : Keeps s t) (k : FaultAt t e u) : FaultAt s e u :=
  ⟨by have := k.unmapped; rwa [State.mapped, h.1.cfg] at this, k.inv ∘ h.2⟩

theorem memRead_faultAt {a : Word} {s u : State} {e : BusFault} (h : memRead a s = .fault e u) : FaultAt s e u := by
  obtain ⟨rfl, rfl, hm⟩ := memRead_fault h
  exact ⟨hm, id⟩

theorem oamCopy_faultAt :
    ∀ (n : Nat) {a : Word} {s u : State} {e : BusFault}, oamCopy n a s = .fault e u → ¬ s.mapped e.address
  | 0, _, _, _, _, h => nomatch h
  | n + 1, a, s, u, e, h => by
    rcases Res.andThen_fault.mp h with h1 | ⟨b, s1, h1, h2⟩
    · exact (memRead_faultAt h1).unmapped
    · have := oamCopy_faultAt n h2
      rwa [State.mapped, (memRead_frame h1).cfg] at this

theorem memWrite_faultAt {a : Word} {v : Byte} {s u : State} {e : BusFault} (h : memWrite a v s = .fault e u) :
    FaultAt s e u := by
  refine ⟨?_, ((memWrite_spec a v s).2 e u h).2.2⟩
  by_cases hm : s.mapped a
  · by_cases ha : a = 0x4014#16
    · subst ha
      rcases Res.andThen_fault.mp (memWrite_dma v s ▸ h) with h1 | ⟨_, _, _, h2⟩
      · exact oamCopy_faultAt _ h1
      · cases h2
    · obtain ⟨t, ht⟩ := memWrite_ok (v := v) ⟨hm, fun h => absurd (BitVec.eq_of_toNat_eq h) ha⟩
      rw [ht] at h
      cases h
  · rw [memWrite_unmapped v hm] at h
    cases h
    exact hm

theorem memReadPage_faultAt {a : Word} {s u : State} {e : BusFault} (h : memReadPage a s = .fault e u) : FaultAt s e u := by
  rcases Res.andThen_fault.mp h with h1 | ⟨lo, s1, h1, h2⟩
  · exact memRead_faultAt h1
  · rcases Res.andThen_fault.mp h2 with h3 | ⟨_, _, _, h4⟩
    · exact .ofKeeps (memRead_keeps h1) (memRead_faultAt h3)
    · cases h4

theorem resolve_faultAt {o : Operand} {s u : State} {e : BusFault} (h : resolve o s = .fault e u) : FaultAt s e u := by
  by_cases hp : ∃ p, o = .indirect p
  · obtain ⟨p, rfl⟩ := hp
    rcases Res.andThen_fault.mp h with h1 | ⟨_, _, _, h2⟩
    · exact memReadPage_faultAt h1
    · cases h2
  · rw [resolve_eq s fun p hc => hp ⟨p, hc⟩] at h
    cases h

/-! ### Faults of instructions and steps -/

theorem operandByte_faultAt {o : Operand} {ea : Word} {s u : State} {e : BusFault} (h : operandByte o ea s = .fault e u) :
    FaultAt s e u := by
  unfold operandByte at h
  split at h
  · cases h
  · exact memRead_faultAt h

theorem Shape.faultAt {i : Instr} {k : Word → State → Res Unit} (hk : Shape i k) {ea : Word} {s u : State} {e : BusFault}
    (h : k ea s = .fault e u) : FaultAt s e u := by
  cases hk with
  | reads =>
    rcases Res.andThen_fault.mp h with h1 | ⟨_, _, _, h2⟩
    · exact operandByte_faultAt h1
    · cases h2
  | changes => cases h
  | pushes => cases h
  | stores => exact memWrite_faultAt h
  | modifies =>
    rcases Res.andThen_fault.mp h with h1 | ⟨m, s1, h1, h2⟩
    · exact memRead_faultAt h1
    · rcases Res.andThen_fault.mp h2 with h3 | ⟨_, _, _, h4⟩
      · exact .ofKeeps (memRead_keeps h1) (memWrite_faultAt h3)
      · cases h4

/-- The fault is F1 of an access met from `s`, with the stuck state of R521. -/
def FaultFrom (s : State) (f : Fault) : Prop := ∃ e op u, f = faultOutcome e op u ∧ FaultAt s e u

theorem FaultFrom.ofKeeps {s t : State} {f : Fault} (h : Keeps s t) : FaultFrom t f → FaultFrom s f
  | ⟨e, op, u, hf, hu⟩ => ⟨e, op, u, hf, .ofKeeps h hu⟩

theorem exec_fault {i : Instr} {s : State} {f : Fault} (h : exec i s = .fault f) : FaultFrom s f := by
  rcases exec_shape i s with ⟨_, _, hr⟩ | ⟨k, hk, hexec⟩
  · rw [hr] at h; cases h
  · obtain ⟨e, u, rfl, hu⟩ := perform_fault (hexec ▸ h)
    refine ⟨e, _, u, rfl, ?_⟩
    rcases hu with hresolve | ⟨a, s1, hresolve, hrun⟩
    · exact resolve_faultAt hresolve
    · exact .ofKeeps ((resolve_keeps hresolve).trans (advancePast_keeps _ _ _)) (hk.faultAt hrun)

theorem operandFaultState_inv {op : Byte} {s : State} (h : s.Inv) : (operandFaultState op s).Inv := by
  unfold operandFaultState
  split
  · exact (advancePast_keeps _ _ _).2 h
  · exact h

theorem fetch_fault {s : State} {f : Fault} (h : fetch s = .fault f) : FaultFrom s f := by
  unfold fetch at h
  split at h
  case h_1 op s1 h1 =>
    unfold fetchOperands at h
    split at h
    · cases h
    · split at h
      · cases h
      · rename_i e u h2
        cases h
        obtain ⟨hk, -, hm⟩ := operandBytes_fault h2
        exact .ofKeeps (memRead_keeps h1) ⟨e, _, _, rfl, hm, fun hi => operandFaultState_inv (hk.2 hi)⟩
  case h_2 e u h1 =>
    cases h
    exact ⟨e, _, u, rfl, memRead_faultAt h1⟩

theorem step_fault {s : State} {f : Fault} (h : step s = .fault f) : FaultFrom (serviceInterrupt s) f := by
  unfold step at h
  split at h
  · cases h
  · unfold cpuStep at h
    split at h
    · cases h
    · rename_i f' hcpu
      cases h
      split at hcpu
      · cases hcpu
      · unfold fetchAndExecute at hcpu
        split at hcpu
        · rename_i hfetch
          exact .ofKeeps (fetch_keeps hfetch).1 (exec_fault hcpu)
        · rename_i hfetch
          cases hcpu
          exact fetch_fault hfetch
        · cases hcpu
    · cases h

/-- A halted machine's step changes nothing (R521). -/
theorem step_of_halted {s : State} (h : s.halted = true) : step s = .next s := if_pos h

/-- Settles O29: the fault is that of an access at an unmapped address, and its state is halted. -/
theorem everyFaultIsMapperUnmapped : Obligations.EveryFaultIsMapperUnmapped := by
  unfold Obligations.EveryFaultIsMapperUnmapped
  intro s f h
  obtain ⟨e, op, u, rfl, hu⟩ := step_fault h
  obtain ⟨-, -, -, -, hcfg, -⟩ := serviceInterrupt_frame s
  obtain ⟨hrouting, hlo, hhi⟩ := State.not_mapped hu.unmapped
  rw [hcfg] at hrouting
  have hmapper : s.cfg.expansionRouting = .mapper := by
    cases hc : s.cfg.expansionRouting with
    | zero => exact absurd hc hrouting
    | mapper => rfl
  exact ⟨e.record op, u.halt (e.record op), rfl, rfl, rfl, hlo, hhi, hmapper, rfl, rfl, step_of_halted rfl⟩

/-! ### The invariant -/

theorem State.halt_inv {s : State} (h : s.Inv) (r : FaultRecord) : (s.halt r).Inv :=
  ⟨h.flags, h.ram, h.port1, h.port2, h.ppu, h.cart, rfl⟩

/-- Picture and mapper steps keep the invariant: they reach the processor through its latch only. -/
theorem PictureStep.inv {s t : State} (h : PictureStep s t) (hi : s.Inv) : t.Inv := by
  obtain ⟨hf, hppu, hcart⟩ := h
  obtain ⟨l, hcpu⟩ := hf.cpu
  refine ⟨?_, hf.ram ▸ hi.ram, hf.port1 ▸ hi.port1, hf.port2 ▸ hi.port2, hppu hi.ppu, hcart hi.cart, ?_⟩
  · rw [hcpu]; exact hi.flags
  · rw [hf.halted, hf.faultRecord]; exact hi.halted

/-- What an answering step does, as one relation: it keeps program bytes, parameters and the invariant. -/
theorem step_keeps {s t : State} (h : step s = .next t) :
    t.cart.prg = s.cart.prg ∧ t.cfg = s.cfg ∧ (s.Inv → t.Inv) := by
  rcases step_next h with ⟨-, rfl⟩ | ⟨-, -, rfl⟩ | ⟨-, -, i, s1, s2, hfetch, hexec, rfl⟩
  case inl => exact ⟨rfl, rfl, id⟩
  case inr.inl =>
    have hrun := runPicture_step 3 { s with cpu := { s.cpu with stall := s.cpu.stall - 1 } }
    exact ⟨hrun.1.prg, hrun.1.cfg, fun hi => hrun.inv (hi.cpu _ hi.flags)⟩
  case inr.inr =>
    obtain ⟨-, hcart, -, -, hcfg, -⟩ := serviceInterrupt_frame s
    have hrun := runPicture_step (3 * (s2.cpu.cycles - s.cpu.cycles)) s2
    obtain ⟨hf, hinv⟩ := (fetch_keeps hfetch).1.trans (exec_keeps hexec)
    exact ⟨by rw [hrun.1.prg, hf.prg, hcart], by rw [hrun.1.cfg, hf.cfg, hcfg],
      fun hi => hrun.inv (hinv (serviceInterrupt_inv hi))⟩

/-- Settles O60: an answering step by its three kinds, a fault by the state its access is taken in. -/
theorem everyStepKeepsTheInvariant : Obligations.EveryStepKeepsTheInvariant := by
  unfold Obligations.EveryStepKeepsTheInvariant
  refine ⟨fun s t h => ?frame, fun s t hi h => ?next, fun s r after hi h => ?fault⟩
  case frame =>
    obtain ⟨hprg, hcfg, -⟩ := step_keeps h
    exact ⟨hprg, hcfg⟩
  case next =>
    obtain ⟨-, -, hinv⟩ := step_keeps h
    exact hinv hi
  case fault =>
    obtain ⟨e, op, u, hf, hu⟩ := step_fault h
    cases hf
    exact State.halt_inv (hu.inv (serviceInterrupt_inv hi)) _

end Sys2Proof.Machine
end

section
/-! SUPPORT. The step as the fetch and the instruction it reads (40_execution_addressing.md R205, 60_exceptions.md R500), the
undocumented opcodes (46_undocumented.md R481), faults of the loads and stores of A (R520, R521), the controller ports
(20_memory.md R140, R141), and the return that undoes an exception's entry (R442, R508); the statements settled by them. -/

namespace Sys2Proof.Machine

open Sys2Proof.Claim

/-! ### The return after an entry -/

/-- The three slots of an entry differ, also where the stack pointer wraps. -/
theorem slot_ne (sp : Byte) : slot sp ≠ slot (sp - 1) ∧ slot sp ≠ slot (sp - 2) ∧ slot (sp - 1) ≠ slot (sp - 2) := by
  unfold slot
  bv_omega

/-- What an entry pushed, slot by slot: the return address high byte first, then the status (R505). -/
theorem exceptionRam_read {ram : Memory} (h : Sparse.wf ram = true) (sp : Byte) (ret : Word) (status : Byte) :
    Sparse.read (exceptionRam ram sp ret status) (slot sp) = Word.hi ret ∧
      Sparse.read (exceptionRam ram sp ret status) (slot (sp - 1)) = Word.lo ret ∧
      Sparse.read (exceptionRam ram sp ret status) (slot (sp - 2)) = status := by
  obtain ⟨h01, h02, h12⟩ := slot_ne sp
  have h1 : Sparse.wf (Sparse.write ram (slot sp) (Word.hi ret)) = true := Sparse.write_wf _ _ _ h
  have h2 : Sparse.wf (Sparse.write (Sparse.write ram (slot sp) (Word.hi ret)) (slot (sp - 1)) (Word.lo ret)) = true :=
    Sparse.write_wf _ _ _ h1
  refine ⟨?hi, ?lo, Sparse.read_write_same h2 _ _⟩
  case hi =>
    exact (Sparse.read_write_other _ _ h02).trans
      ((Sparse.read_write_other _ _ h01).trans (Sparse.read_write_same h _ _))
  case lo => exact (Sparse.read_write_other _ _ h12).trans (Sparse.read_write_same h1 _ _)

/-- Settles O22: the three slots that RTI pulls are those the entry pushed. -/
theorem rtiInvertsExceptionEntry : Obligations.RtiInvertsExceptionEntry := by
  unfold Obligations.RtiInvertsExceptionEntry
  intro vec s hram hflags
  have hexec := laid_rti.exec_eq (exec_rti (takeException vec s))
  rw [changing, returnFromException_eq, takeException_eq] at hexec
  obtain ⟨hhi, hlo, hstatus⟩ := exceptionRam_read hram s.cpu.sp s.cpu.pc s.cpu.flags.pushed
  have hsp1 : s.cpu.sp - 3 + 1 = s.cpu.sp - 2 := by bv_omega
  have hsp2 : s.cpu.sp - 3 + 2 = s.cpu.sp - 1 := by bv_omega
  have hsp3 : s.cpu.sp - 3 + 3 = s.cpu.sp := BitVec.sub_add_cancel _ _
  rw [takeException_eq, hexec]
  refine ⟨_, rfl, ?pc, ?sp, ?flags⟩
  case pc => simp only [past, hsp2, hsp3, hhi, hlo, wordOf_lo_hi]
  case sp => exact hsp3
  case flags => simp only [past, hsp1, hstatus, Flags.pulled_pushed hflags]

/-! ### Undocumented opcodes -/

/-- What the instructions of the 21 labels share. -/
theorem label_facts {op : Byte} {o : Operand} :
    ∀ i ∈ [Instr.kil op o, .nopUndoc op o, .slo op o, .rla op o, .sre op o, .rra op o, .dcp op o, .isc op o, .sax op o,
      .lax op o, .anc op o, .alr op o, .arr op o, .xaa op o, .axs op o, .sbcUndoc op o, .ahx op o, .shy op o, .shx op o,
      .tas op o, .las op o], i.undoc.isSome = true ∧ i.opcode = op := by
  simp only [List.forall_mem_cons]
  repeat' constructor
  all_goals nofun

theorem pagePenalty_of_undocumented {op : Byte} (h : (opRow op).documented = false) : (opRow op).pagePenalty = 0 := by
  have hrows : ∀ r ∈ opTable, r.documented = false → r.pagePenalty = 0 := by decide +kernel
  exact hrows _ (opRow_mem op) h

/-- Settles O23: a label's meaning makes no access but its mode's, and its row's size and cycles are the free tables'. -/
theorem undocumentedOpcodesAreNoOps : Obligations.UndocumentedOpcodesAreNoOps := by
  unfold Obligations.UndocumentedOpcodesAreNoOps
  intro op o s hmode i hi hw
  obtain ⟨hundoc, rfl⟩ := label_facts i hi
  obtain ⟨hlaid, hrow⟩ := laid_undocumented hundoc hw
  have hexec := hlaid.exec_eq ((exec_undocumented hundoc s).trans (undocumented_noop hmode))
  rw [hexec, changing, id, past]
  simp [Instr.layout, opLength, opBaseCycles, hrow, pagePenalty_of_undocumented hrow, Res.conclude, State.withPcCycles]

/-! ### The step -/

/-- A machine that is neither halted nor stalled runs the instruction it fetches after the interrupt service (R205, R500). -/
theorem step_of_fetch {s u : State} {i : Instr} (hh : s.halted = false) (hs : s.cpu.stall = 0)
    (hf : fetch (serviceInterrupt s) = .instr i u) :
    step s =
      match exec i u with
      | .next t => .next (runPicture (3 * (t.cpu.cycles - s.cpu.cycles)) t)
      | .fault f => .fault f
      | .refused r => .refused r := by
  have hcpu : cpuStep s = exec i u := by rw [cpuStep_of_not_stalled hs, fetchAndExecute, hf]
  have hcycles (t : State) : stepCycles s t = t.cpu.cycles - s.cpu.cycles := if_neg (by omega)
  rw [step, hh, hcpu]
  cases exec i u with
  | next t => exact congrArg (fun n => Host.Outcome.next (runPicture (3 * n) t)) (hcycles t)
  | fault f => rfl
  | refused r => rfl

theorem step_of_refused_fetch {s : State} {r : Refusal} (hh : s.halted = false) (hs : s.cpu.stall = 0)
    (hf : fetch (serviceInterrupt s) = .refused r) : step s = .refused r := by
  rw [step, hh, cpuStep_of_not_stalled hs, fetchAndExecute, hf]
  rfl

theorem fetch_of_read {s s1 : State} {op : Byte} (h : memRead s.cpu.pc s = .ok op s1) : fetch s = fetchOperands op s1 := by
  rw [fetch, h]

theorem fetchOperands_ok {s s2 : State} {op lo hi : Byte} (hr : refusesOpcode s.cfg op = false)
    (h : operandBytes op s = .ok (lo, hi) s2) : fetchOperands op s = .instr ((opRow op).build lo hi) s2 := by
  rw [fetchOperands, hr, h]
  rfl

/-- The operand bytes an instruction does not read are 0 (R223). -/
theorem operandBytes_unread {s t : State} {op lo hi : Byte} (h : operandBytes op s = .ok (lo, hi) t) :
    (if (opRow op).readBytes = 0 then 0 else lo) = lo ∧ (if (opRow op).readBytes = 2 then hi else 0) = hi := by
  rcases (opRow op).readBytes_cases with hn | hn | hn <;> rw [operandBytes, hn] at h
  · cases h
    exact ⟨by rw [hn]; rfl, by rw [hn]; rfl⟩
  · obtain ⟨b, s1, -, hlast⟩ := Res.andThen_ok.mp h
    cases hlast
    exact ⟨by rw [hn]; rfl, by rw [hn]; rfl⟩
  · exact ⟨by rw [hn]; rfl, by rw [hn]; rfl⟩

/-- Operand bytes that lie in memory are read without side effects (20_memory.md R103). -/
theorem operandBytes_memory {s : State} {op b1 b2 : Byte} (h1 : s.memoryByte (s.cpu.pc + 1) = some b1)
    (h2 : s.memoryByte (s.cpu.pc + 2) = some b2) :
    operandBytes op s =
      .ok (if (opRow op).readBytes = 0 then 0 else b1, if (opRow op).readBytes = 2 then b2 else 0) s := by
  have hread1 := memRead_memoryByte h1
  have hread2 := memRead_memoryByte h2
  rcases (opRow op).readBytes_cases with hn | hn | hn <;> rw [operandBytes, hn]
  · rfl
  · show (memRead _ s).andThen _ = _
    rw [hread1]
    rfl
  · show (memRead _ s).andThen _ = _
    rw [hread1, Res.andThen_ok_left, hread2]
    rfl

/-- Settles O24: a label's meaning refuses; a step refuses by the row of the opcode it reads. -/
theorem undocumentedOpcodesAreRefused : Obligations.UndocumentedOpcodesAreRefused := by
  unfold Obligations.UndocumentedOpcodesAreRefused
  refine ⟨fun op o s hmode i hi => ?exec, fun op s s1 hh hs hmode hread hrow => ?step⟩
  case exec =>
    obtain ⟨hundoc, rfl⟩ := label_facts i hi
    exact (exec_undocumented hundoc s).trans (undocumented_refused hmode)
  case step =>
    have hframe := memRead_frame hread
    obtain ⟨-, -, -, -, hcfg, -⟩ := serviceInterrupt_frame s
    have hrefuses : refusesOpcode s1.cfg op = true := by simp [refusesOpcode, hrow, hframe.cfg, hcfg, hmode]
    refine step_of_refused_fetch hh hs ?_
    rw [fetch_of_read hread, fetchOperands, if_pos hrefuses, hframe.cpu]

/-- Settles O25: the fetch reads the bytes that decode to the instruction; memory bytes it reads without side effects. -/
theorem stepRunsTheInstruction : Obligations.StepRunsTheInstruction := by
  unfold Obligations.StepRunsTheInstruction
  refine ⟨fun s s1 s2 op lo hi i hh hs hread hrow hbytes hi => ?bus, fun s b0 b1 b2 i hh hs hp h0 h1 h2 hrow hi => ?memory⟩
  case bus =>
    obtain ⟨-, -, -, -, hcfg, -⟩ := serviceInterrupt_frame s
    obtain ⟨hlo, hhi⟩ := operandBytes_unread hbytes
    rw [decode_two_operand_bytes, hlo, hhi] at hi
    cases hi
    refine step_of_fetch hh hs ?_
    rw [fetch_of_read hread]
    exact fetchOperands_ok (by rw [(memRead_frame hread).cfg, hcfg]; exact hrow) hbytes
  case memory =>
    rw [decode_two_operand_bytes] at hi
    cases hi
    refine step_of_fetch hh hs ?_
    rw [serviceInterrupt_of_not_pending hp, fetch_of_read (memRead_memoryByte h0)]
    exact fetchOperands_ok hrow (operandBytes_memory h1 h2)

/-- Settles O26: a stall step is one cycle; a halted step is none. -/
theorem stallAndHaltedSteps : Obligations.StallAndHaltedSteps := by
  unfold Obligations.StallAndHaltedSteps
  refine ⟨fun s hh hs => ?stall, fun s => step_of_halted⟩
  case stall => simp [step, hh, cpuStep, stepCycles, hs]

/-! ### Faults of the loads and stores of A -/

theorem past_not_mapped {s : State} (l : Layout) (o : Operand) {a : Word} (h : ¬ s.mapped a) : ¬ (past s l o).mapped a := h

/-- Settles O30: the handler's access is the one that faults, in the state past the instruction. -/
theorem unmappedAccessFaults : Obligations.UnmappedAccessFaults := by
  unfold Obligations.UnmappedAccessFaults
  refine ⟨fun o s hmemory hm => ?lda, fun o s hm => ?sta⟩
  case lda =>
    intro l r
    have hread : memRead (s.ea o.toOperand) (past s l o.toOperand) = .fault _ _ := memRead_unmapped (past_not_mapped l _ hm)
    have hbyte (u : State) : operandByte o.toOperand (s.ea o.toOperand) u = memRead (s.ea o.toOperand) u := by
      cases o with
      | immediate imm => exact absurd rfl (hmemory imm)
      | _ => rfl
    have hexec : exec (.lda o) s =
        (readingM o.toOperand loadA (s.ea o.toOperand) (past s l o.toOperand)).conclude (Instr.lda o).opcode :=
      (laid_lda o).exec_eq rfl
    rw [hexec, readingM, hbyte, hread]
    exact congrArg (fun op => Host.Outcome.fault (faultOutcome _ (some op) _)) (laid_lda o).op
  case sta =>
    intro l r
    have hwrite : memWrite (s.ea o.toOperand) s.cpu.a (past s l o.toOperand) = .fault _ _ :=
      memWrite_unmapped _ (past_not_mapped l _ hm)
    have hexec : exec (.sta o) s =
        (memWrite (s.ea o.toOperand) s.cpu.a (past s l o.toOperand)).conclude (Instr.sta o).opcode :=
      (laid_sta o).exec_eq (handler := storing fun u => u.cpu.a) rfl
    rw [hexec, hwrite]
    exact congrArg (fun op => Host.Outcome.fault (faultOutcome _ (some op) _)) (laid_sta o).op

/-! ### Controllers -/

/-- The byte of a controller read is the indexed button's bit, 0 past the eighth (R140). -/
theorem controllerByte_toNat (p : Port) (c : Controller) :
    (controllerByte p c).toNat = if c.index < 8 then ((Config.buttons p c.draws).getLsbD c.index).toNat else 0 := by
  unfold controllerByte
  split
  · cases (Config.buttons p c.draws).getLsbD c.index <;> rfl
  · rfl

/-- Settles O37: the byte is the button's bit; the ports by the definitions of the read and the write. -/
theorem controllersShiftButtons : Obligations.ControllersShiftButtons := by
  unfold Obligations.ControllersShiftButtons
  exact fun v s => ⟨⟨controllerByte_toNat .one s.port1, rfl, rfl⟩, ⟨controllerByte_toNat .two s.port2, rfl, rfl⟩⟩

end Sys2Proof.Machine
end

section
/-! SUPPORT. What completed instructions leave of memory and the devices (20_memory.md section 1, section 2), by their three kinds
of answer, and the OAM DMA as 256 turns (R130); the statements settled by them. -/

namespace Sys2Proof.Machine

open Sys2Proof.Claim

/-! ### Memory bytes -/

theorem State.memoryByte_congr {s t : State} (hr : t.ram = s.ram) (hc : t.cart = s.cart) (a : Word) :
    t.memoryByte a = s.memoryByte a := by
  unfold State.memoryByte
  rw [hr, hc]

/-- Of a RAM byte, only the RAM index counts (R103). -/
theorem State.memoryByte_ram {s : State} {a : Word} (h : a.toNat < 0x2000) :
    s.memoryByte a = some (Sparse.read s.ram (ramIndex a)) := if_pos h

/-- RAM does not matter from 0x2000 on. -/
theorem State.memoryByte_of_cart {s t : State} {a : Word} (h : ¬ a.toNat < 0x2000) (hc : t.cart = s.cart) :
    t.memoryByte a = s.memoryByte a := by
  unfold State.memoryByte
  rw [if_neg h, if_neg h, hc]

/-- RAM that differs at other indexes alone has the byte unchanged. -/
theorem State.memoryByte_of_ram {s t : State} {a : Word} (hc : t.cart = s.cart)
    (hr : a.toNat < 0x2000 → Sparse.read t.ram (ramIndex a) = Sparse.read s.ram (ramIndex a)) :
    t.memoryByte a = s.memoryByte a := by
  by_cases h : a.toNat < 0x2000
  · rw [State.memoryByte_ram h, State.memoryByte_ram h, hr h]
  · exact State.memoryByte_of_cart h hc

theorem ReadFrame.ppuMemories {s t : State} (h : ReadFrame s t) :
    t.ppu.oam = s.ppu.oam ∧ t.ppu.oamAddr = s.ppu.oamAddr ∧ t.ppu.nt = s.ppu.nt ∧ t.ppu.pal = s.ppu.pal := by
  obtain ⟨v, w, vb, rb, np, nd, hp⟩ := h.ppu
  rw [hp]
  exact ⟨rfl, rfl, rfl, rfl⟩

/-- Reads leave the strobes. -/
theorem ReadFrame.strobes {s t : State} (h : ReadFrame s t) :
    t.port1.strobe = s.port1.strobe ∧ t.port2.strobe = s.port2.strobe := by
  obtain ⟨i1, d1, h1⟩ := h.port1
  obtain ⟨i2, d2, h2⟩ := h.port2
  rw [h1, h2]
  exact ⟨rfl, rfl⟩

/-- A push reaches RAM and the processor alone. -/
theorem Pushes.devices {i : Instr} {s t : State} (h : Pushes i s t) :
    t.ppu = s.ppu ∧ t.cart = s.cart ∧ t.port1 = s.port1 ∧ t.port2 = s.port2 := by
  rw [h.eq]
  exact ⟨rfl, rfl, rfl, rfl⟩

/-- Settles O33: an answer that neither stores nor pushes is quiet, one that pushes changes the slots it pushes to. -/
theorem instructionsWithoutStoreLeaveMemory : Obligations.InstructionsWithoutStoreLeaveMemory := by
  unfold Obligations.InstructionsWithoutStoreLeaveMemory
  refine ⟨fun i s t hstore hpush h => ?quiet, fun i s t hpush h => ?push⟩
  case quiet =>
    cases exec_answer h with
    | quiet _ h =>
      obtain ⟨hoam, haddr, hnt, hpal⟩ := h.reads.ppuMemories
      exact ⟨State.memoryByte_congr h.reads.ram h.reads.cart, h.reads.ram, h.reads.cart, hoam, haddr, hnt, hpal⟩
    | pushes hi _ => exact absurd hi.pushes hpush
    | stores h => exact absurd h.storing.stores hstore
  case push =>
    cases exec_answer h with
    | quiet hi _ => exact absurd hpush hi.notPushes
    | stores h => exact absurd hpush h.storing.notPushes
    | pushes _ h =>
      obtain ⟨hppu, hcart, hport1, hport2⟩ := h.devices
      refine ⟨hppu, hcart, hport1, hport2, fun a ha => ?_⟩
      refine State.memoryByte_of_ram hcart fun hlow => h.other _ ?_
      obtain ⟨h0, h1, h2⟩ := ha hlow
      rintro (hk | ⟨hm, hk⟩ | ⟨hm, hk⟩)
      · exact h0 hk
      · exact h1 hm hk
      · exact h2 hm hk

/-! ### Stores to the devices and the mapper's registers -/

/-- The cases of an answering read by the state after it (R110, R113). -/
inductive ReadCase (a : Word) (s t : State) : Prop
  | none (ht : t = s)
  | pictureRegister (hhi : a.toNat < 0x4000) (ht : t = (ppuRegRead (a.toNat % 8) s).2)
  | controllerOne (ha : a.toNat = 0x4016) (ht : t = (controllerRead .one s).2)
  | controllerTwo (ha : a.toNat = 0x4017) (ht : t = (controllerRead .two s).2)

theorem memRead_case {a : Word} {s t : State} {b : Byte} (h : memRead a s = .ok b t) : ReadCase a s t := by
  unfold memRead at h
  dsimp only at h
  split at h
  case isTrue => cases h; exact .none rfl
  split at h
  case isTrue hhi => cases h; exact .pictureRegister hhi rfl
  split at h
  case isTrue => cases h; exact .none rfl
  split at h
  case isTrue ha => cases h; exact .controllerOne ha rfl
  split at h
  case isTrue ha => cases h; exact .controllerTwo ha rfl
  split at h
  case isTrue => cases h; exact .none rfl
  split at h
  case isTrue => cases h; exact .none rfl
  split at h
  · cases h; exact .none rfl
  · cases h

theorem ppuRegRead_ports (r : Nat) (s : State) :
    (ppuRegRead r s).2.port1 = s.port1 ∧ (ppuRegRead r s).2.port2 = s.port2 := by
  unfold ppuRegRead
  split <;> exact ⟨rfl, rfl⟩

theorem Cartridge.dispatchShift_reaches (c : Cartridge) (st : ShiftReg) (a : Nat) (d : BitVec 5) :
    ∃ m mi, c.dispatchShift st a d = { c with mapper := m, mirror := mi } := by
  unfold Cartridge.dispatchShift
  split
  · exact ⟨_, _, rfl⟩
  split
  · exact ⟨_, c.mirror, rfl⟩
  split <;> exact ⟨_, c.mirror, rfl⟩

theorem Cartridge.shiftWrite_reaches (c : Cartridge) (st : ShiftReg) (a : Nat) (v : Byte) :
    ∃ m mi, c.shiftWrite st a v = { c with mapper := m, mirror := mi } := by
  unfold Cartridge.shiftWrite
  split
  · exact ⟨_, _, rfl⟩
  dsimp only
  split
  · exact c.dispatchShift_reaches _ a _
  · exact ⟨_, c.mirror, rfl⟩

/-- A write to a mapper register reaches the variant's registers and the mirroring alone (62_mappers.md R650). -/
theorem Cartridge.registerWrite_reaches (c : Cartridge) (a : Nat) (v : Byte) :
    ∃ m mi, c.registerWrite a v = { c with mapper := m, mirror := mi } := by
  unfold Cartridge.registerWrite
  split
  · exact ⟨_, c.mirror, rfl⟩
  · exact c.shiftWrite_reaches _ a v
  · exact ⟨_, _, rfl⟩

/-- What an access of `a`, an address of the devices or the mapper's registers, leaves of the machine. -/
structure DeviceFrame (a : Word) (s t : State) : Prop where
  ram : t.ram = s.ram
  sram : t.cart.sram = s.cart.sram
  prg : t.cart.prg = s.cart.prg
  pictureMemories : 0x4000 ≤ a.toNat → t.cart.chr = s.cart.chr ∧ t.ppu.nt = s.ppu.nt ∧ t.ppu.pal = s.ppu.pal
  ppu : 0x4000 ≤ a.toNat → a.toNat ≠ 0x4014 → t.ppu = s.ppu
  mapper : a.toNat < 0x8000 → t.cart.mapper = s.cart.mapper ∧ t.cart.mirror = s.cart.mirror
  port1 : a.toNat ≠ 0x4016 → t.port1.strobe = s.port1.strobe ∧ (a.toNat ≠ 0x4014 → t.port1 = s.port1)
  port2 : a.toNat ≠ 0x4017 → t.port2.strobe = s.port2.strobe ∧ (a.toNat ≠ 0x4014 → t.port2 = s.port2)
  stall : a.toNat ≠ 0x4014 → t.cpu.stall = s.cpu.stall

section
variable {a : Word} {s t u : State}

theorem DeviceFrame.trans (h : DeviceFrame a s t) (k : DeviceFrame a t u) : DeviceFrame a s u where
  ram := k.ram.trans h.ram
  sram := k.sram.trans h.sram
  prg := k.prg.trans h.prg
  pictureMemories ha :=
    have ⟨hchr, hnt, hpal⟩ := h.pictureMemories ha
    have ⟨kchr, knt, kpal⟩ := k.pictureMemories ha
    ⟨kchr.trans hchr, knt.trans hnt, kpal.trans hpal⟩
  ppu ha hd := (k.ppu ha hd).trans (h.ppu ha hd)
  mapper ha := ⟨(k.mapper ha).1.trans (h.mapper ha).1, (k.mapper ha).2.trans (h.mapper ha).2⟩
  port1 ha := ⟨(k.port1 ha).1.trans (h.port1 ha).1, fun hd => ((k.port1 ha).2 hd).trans ((h.port1 ha).2 hd)⟩
  port2 ha := ⟨(k.port2 ha).1.trans (h.port2 ha).1, fun hd => ((k.port2 ha).2 hd).trans ((h.port2 ha).2 hd)⟩
  stall ha := (k.stall ha).trans (h.stall ha)

/-- Only the processor changes, and not in its stall counter. -/
theorem DeviceFrame.cpu (a : Word) (s : State) {c : Cpu} (h : c.stall = s.cpu.stall) : DeviceFrame a s { s with cpu := c } :=
  ⟨rfl, rfl, rfl, fun _ => ⟨rfl, rfl, rfl⟩, fun _ _ => rfl, fun _ => ⟨rfl, rfl⟩, fun _ => ⟨rfl, fun _ => rfl⟩,
    fun _ => ⟨rfl, fun _ => rfl⟩, fun _ => h⟩

theorem DeviceFrame.refl (a : Word) (s : State) : DeviceFrame a s s := .cpu a s rfl

/-- Below 0x4000 only the picture unit and the pattern array can change. -/
theorem DeviceFrame.picture (ha : a.toNat < 0x4000) (s : State) (p : Ppu) (chr : Rom) :
    DeviceFrame a s { s with ppu := p, cart := { s.cart with chr := chr } } :=
  ⟨rfl, rfl, rfl, fun hlo => by omega, fun hlo => by omega, fun _ => ⟨rfl, rfl⟩, fun _ => ⟨rfl, fun _ => rfl⟩,
    fun _ => ⟨rfl, fun _ => rfl⟩, fun _ => rfl⟩

theorem memRead_device {b : Byte} (h : memRead a s = .ok b t) : DeviceFrame a s t := by
  have hf := memRead_frame h
  cases memRead_case h with
  | none ht => exact ht ▸ .refl a s
  | pictureRegister hhi ht =>
    obtain ⟨h1, h2⟩ := ppuRegRead_ports (a.toNat % 8) s
    rw [← ht] at h1 h2
    exact ⟨hf.ram, congrArg _ hf.cart, congrArg _ hf.cart, fun hlo => by omega, fun hlo => by omega,
      fun _ => ⟨congrArg _ hf.cart, congrArg _ hf.cart⟩, fun _ => ⟨congrArg _ h1, fun _ => h1⟩,
      fun _ => ⟨congrArg _ h2, fun _ => h2⟩, fun _ => congrArg _ hf.cpu⟩
  | controllerOne ha ht =>
    subst ht
    exact ⟨rfl, rfl, rfl, fun _ => ⟨rfl, rfl, rfl⟩, fun _ _ => rfl, fun _ => ⟨rfl, rfl⟩, fun hne => absurd ha hne,
      fun _ => ⟨rfl, fun _ => rfl⟩, fun _ => rfl⟩
  | controllerTwo ha ht =>
    subst ht
    exact ⟨rfl, rfl, rfl, fun _ => ⟨rfl, rfl, rfl⟩, fun _ _ => rfl, fun _ => ⟨rfl, rfl⟩,
      fun _ => ⟨rfl, fun _ => rfl⟩, fun hne => absurd ha hne, fun _ => rfl⟩

end

/-- The reads of a copy have their side effects; OAM and its address are the copy's own to write. -/
def CopyFrame (s t : State) : Prop :=
  ReadFrame { s with ppu := { s.ppu with oam := t.ppu.oam, oamAddr := t.ppu.oamAddr } } t

theorem ReadFrame.withOam {s t : State} (h : ReadFrame s t) (oam : Memory) (addr : Byte) :
    ReadFrame { s with ppu := { s.ppu with oam := oam, oamAddr := addr } }
      { t with ppu := { t.ppu with oam := oam, oamAddr := addr } } := by
  obtain ⟨v, w, vb, rb, np, nd, hp⟩ := h.ppu
  exact ⟨h.cpu, h.ram, h.cart, h.halted, h.faultRecord, h.cfg, h.port1, h.port2, v, w, vb, rb, np, nd, by rw [hp]⟩

theorem oamCopy_copyFrame : ∀ (n : Nat) {a : Word} {s t : State}, oamCopy n a s = .ok () t → CopyFrame s t
  | 0, _, s, _, h => by cases h; exact .refl s
  | n + 1, _, s, t, h => by
    obtain ⟨b, s1, hread, hrest⟩ := Res.andThen_ok.mp h
    have hcopied : CopyFrame _ t := oamCopy_copyFrame n hrest
    exact ((memRead_frame hread).withOam t.ppu.oam t.ppu.oamAddr).trans hcopied

theorem oamDma_device {a : Word} {v : Byte} {s t : State} (ha : a.toNat = 0x4014) (h : oamDma v s = .ok () t) :
    DeviceFrame a s t := by
  obtain ⟨⟨⟩, s1, hcopy, hlast⟩ := Res.andThen_ok.mp h
  have hf := oamCopy_copyFrame _ hcopy
  cases hlast
  obtain ⟨h1, h2⟩ := hf.strobes
  obtain ⟨-, -, hnt, hpal⟩ := hf.ppuMemories
  have hcart : s1.cart = s.cart := hf.cart
  refine ⟨hf.ram, congrArg _ hcart, congrArg _ hcart, fun _ => ⟨congrArg _ hcart, hnt, hpal⟩, fun _ hne => absurd ha hne,
    fun _ => ⟨congrArg _ hcart, congrArg _ hcart⟩, fun _ => ⟨h1, fun hne => absurd ha hne⟩,
    fun _ => ⟨h2, fun hne => absurd ha hne⟩, fun hne => absurd ha hne⟩

theorem memWrite_device {a : Word} {v : Byte} {s t : State} (hlo : 0x2000 ≤ a.toNat)
    (hsave : ¬ (0x6000 ≤ a.toNat ∧ a.toNat < 0x8000)) (h : memWrite a v s = .ok () t) : DeviceFrame a s t := by
  cases memWrite_case h with
  | ram ha => omega
  | saveRam hs1 hs2 => exact absurd ⟨hs1, hs2⟩ hsave
  | sink _ _ ht => exact ht ▸ .refl a s
  | dma ha ht => exact oamDma_device ha ht
  | pictureRegister _ hhi ht =>
    obtain ⟨p, chr, hreach⟩ := ppuRegWrite_reaches (a.toNat % 8) v s
    rw [ht, hreach]
    exact .picture hhi s p chr
  | controllerOne ha ht =>
    subst ht
    exact ⟨rfl, rfl, rfl, fun _ => ⟨rfl, rfl, rfl⟩, fun _ _ => rfl, fun _ => ⟨rfl, rfl⟩, fun hne => absurd ha hne,
      fun _ => ⟨rfl, fun _ => rfl⟩, fun _ => rfl⟩
  | controllerTwo ha ht =>
    subst ht
    exact ⟨rfl, rfl, rfl, fun _ => ⟨rfl, rfl, rfl⟩, fun _ _ => rfl, fun _ => ⟨rfl, rfl⟩,
      fun _ => ⟨rfl, fun _ => rfl⟩, fun hne => absurd ha hne, fun _ => rfl⟩
  | register hhi ht =>
    obtain ⟨m, mi, hreach⟩ := s.cart.registerWrite_reaches a.toNat v
    rw [ht, hreach]
    exact ⟨rfl, rfl, rfl, fun _ => ⟨rfl, rfl, rfl⟩, fun _ _ => rfl, fun hlt => by omega, fun _ => ⟨rfl, fun _ => rfl⟩,
      fun _ => ⟨rfl, fun _ => rfl⟩, fun _ => rfl⟩

/-! ### Stores to memory -/

/-- A store where reading has no side effect writes one byte past the instruction, and sets flags. -/
theorem StoresAt.plain {i : Instr} {s t : State} (h : StoresAt i s t)
    (hread : ∀ u m v, memRead (s.ea i.operand) u = .ok m v → v = u) :
    ∃ v u f, memWrite (s.ea i.operand) v (s.advanced i) = .ok () u ∧ t = u.setFlags f := by
  obtain ⟨s1, s2, v, hs1, hwrite, f, rfl, -⟩ := h.write
  have hpast : s1 = s.advanced i := hs1.elim id fun ⟨m, hm⟩ => hread _ m _ hm
  exact ⟨v, s2, f, hpast ▸ hwrite, rfl⟩

theorem memRead_ram_state {a : Word} (ha : a.toNat < 0x2000) (u : State) (m : Byte) (v : State)
    (h : memRead a u = .ok m v) : v = u := by
  rw [memRead_ram u ha] at h
  cases h
  rfl

theorem memRead_sram_state {a : Word} (hlo : 0x6000 ≤ a.toNat) (hhi : a.toNat < 0x8000) (u : State) (m : Byte) (v : State)
    (h : memRead a u = .ok m v) : v = u := by
  rw [memRead_cart hlo (u.cart.read_sram hlo hhi)] at h
  cases h
  rfl

/-- A save RAM write leaves every other memory byte. -/
theorem State.memoryByte_writeSram {s : State} {a ea : Word} (v : Byte) (hlo : 0x6000 ≤ ea.toNat) (hne : a ≠ ea) :
    State.memoryByte { s with cart := { s.cart with sram := Sparse.write s.cart.sram (ea.toNat - 0x6000) v } } a =
      s.memoryByte a := by
  unfold State.memoryByte
  split
  · rfl
  split
  · rfl
  split
  · have hidx : a.toNat - 0x6000 ≠ ea.toNat - 0x6000 := fun h => hne (BitVec.eq_of_toNat_eq (by omega))
    exact congrArg some (Sparse.read_write_other _ _ hidx)
  · rfl

/-- Settles O34: a store's read and write by the unit its address belongs to. -/
theorem storesLeaveOtherMemory : Obligations.StoresLeaveOtherMemory := by
  unfold Obligations.StoresLeaveOtherMemory
  have hstores {i : Instr} {s t : State} (hi : storesToEa i) (h : exec i s = .next t) : StoresAt i s t := by
    cases exec_answer h with
    | quiet hn _ => exact absurd hi hn.notStores
    | pushes hn _ => exact absurd hi hn.notStores
    | stores h => exact h
  refine ⟨?memory, ?devices⟩
  case memory =>
    rintro i s t hi h ea rfl
    refine ⟨fun hram => ?ram, fun hlo hhi => ?sram⟩
    case ram =>
      obtain ⟨v, u, f, hwrite, rfl⟩ := (hstores hi h).plain (memRead_ram_state hram)
      rw [memWrite_ram v _ hram] at hwrite
      cases hwrite
      refine ⟨fun a ha => State.memoryByte_of_ram rfl fun hlow => ?_, rfl, rfl, rfl, rfl, rfl⟩
      exact Sparse.read_write_other _ _ fun heq => ha ⟨hlow, heq⟩
    case sram =>
      obtain ⟨v, u, f, hwrite, rfl⟩ := (hstores hi h).plain (memRead_sram_state hlo hhi)
      rw [memWrite_cart hlo (Cartridge.write_sram _ v hlo hhi)] at hwrite
      cases hwrite
      exact ⟨fun a ha => State.memoryByte_writeSram v hlo ha, rfl, rfl, rfl, rfl, rfl, rfl, rfl, rfl⟩
  case devices =>
    rintro i s t hi h ea rfl hlo hsave
    obtain ⟨s1, s2, v, hread, hwrite, f, rfl, -⟩ := (hstores hi h).write
    have hpast : DeviceFrame (s.ea i.operand) s (s.advanced i) := .cpu _ s rfl
    have hbefore : DeviceFrame (s.ea i.operand) s s1 := by
      rcases hread with rfl | ⟨m, hm⟩
      · exact hpast
      · exact hpast.trans (memRead_device hm)
    have hflags : DeviceFrame (s.ea i.operand) s2 (s2.setFlags f) := .cpu _ s2 rfl
    have hframe := (hbefore.trans (memWrite_device hlo hsave hwrite)).trans hflags
    exact ⟨hframe.ram, hframe.sram, hframe.prg, hframe.pictureMemories, hframe.ppu, hframe.mapper, hframe.port1, hframe.port2,
      hframe.stall⟩

/-! ### The OAM DMA -/

/-- A turn of the DMA at `a`: the byte read, and the state after its store at `oam_addr` (R130). -/
def DmaTurn (a : Word) (s : State) (b : Byte) (t : State) : Prop :=
  ∃ r, memRead a s = .ok b r ∧ t = { r with ppu := r.ppu.writeOam b }

/-- A sequence with one more value in front. -/
def prepend {α : Type} (x : α) (f : Nat → α) : Nat → α
  | 0 => x
  | k + 1 => f k

/-- An answering copy is a sequence of turns. -/
theorem oamCopy_turns : ∀ (n : Nat) {a : Word} {s t : State}, oamCopy n a s = .ok () t →
    ∃ (b : Nat → Byte) (u : Nat → State), u 0 = s ∧ u n = t ∧
      ∀ i, i < n → DmaTurn (a + BitVec.ofNat 16 i) (u i) (b i) (u (i + 1))
  | 0, _, s, _, h => by
    cases h
    exact ⟨fun _ => 0, fun _ => s, rfl, rfl, fun i hi => absurd hi (Nat.not_lt_zero i)⟩
  | n + 1, a, s, t, h => by
    obtain ⟨b0, r, hread, hrest⟩ := Res.andThen_ok.mp h
    obtain ⟨b, u, hfirst, hlast, hturns⟩ := oamCopy_turns n hrest
    refine ⟨prepend b0 b, prepend s u, rfl, hlast, fun i hi => ?_⟩
    cases i with
    | zero =>
      refine ⟨r, ?_, hfirst⟩
      show memRead (a + 0#16) s = .ok b0 r
      rwa [BitVec.add_zero]
    | succ k =>
      have haddr : a + BitVec.ofNat 16 (k + 1) = a + 1 + BitVec.ofNat 16 k := by
        rw [Nat.add_comm, BitVec.ofNat_add]
        exact (BitVec.add_assoc ..).symm
      rw [haddr]
      exact hturns k (by omega)

/-- After `k` turns from `s` that read the bytes `b`: where they are in OAM, and what is as it was. -/
structure Copied (s : State) (b : Nat → Byte) (k : Nat) (t : State) : Prop where
  oamAddr : t.ppu.oamAddr = s.ppu.oamAddr + BitVec.ofNat 8 k
  wf : Sparse.wf t.ppu.oam = true
  bytes : ∀ j, j < k → Sparse.read t.ppu.oam (s.ppu.oamAddr + BitVec.ofNat 8 j).toNat = b j
  ram : t.ram = s.ram
  cart : t.cart = s.cart

theorem Copied.turn {s t t' : State} {b : Nat → Byte} {k : Nat} {a : Word} (h : Copied s b k t) (hk : k < 256)
    (ht : DmaTurn a t (b k) t') : Copied s b (k + 1) t' := by
  obtain ⟨r, hread, rfl⟩ := ht
  have hf := memRead_frame hread
  obtain ⟨hoam, haddr, -, -⟩ := hf.ppuMemories
  have hindex : r.ppu.oamAddr = s.ppu.oamAddr + BitVec.ofNat 8 k := haddr.trans h.oamAddr
  have hwf : Sparse.wf r.ppu.oam = true := hoam ▸ h.wf
  refine ⟨?oamAddr, Sparse.write_wf _ _ _ hwf, fun j hj => ?bytes, hf.ram.trans h.ram, hf.cart.trans h.cart⟩
  case oamAddr =>
    show r.ppu.oamAddr + 1 = _
    rw [hindex, BitVec.ofNat_add]
    exact BitVec.add_assoc ..
  case bytes =>
    show Sparse.read (Sparse.write r.ppu.oam r.ppu.oamAddr.toNat (b k)) _ = _
    rw [hindex]
    by_cases heq : j = k
    · subst heq
      exact Sparse.read_write_same hwf _ _
    · have hne : (s.ppu.oamAddr + BitVec.ofNat 8 j).toNat ≠ (s.ppu.oamAddr + BitVec.ofNat 8 k).toNat := by
        have := s.ppu.oamAddr.isLt
        simp only [BitVec.toNat_add, BitVec.toNat_ofNat]
        omega
      rw [Sparse.read_write_other _ _ hne, hoam]
      exact h.bytes j (by omega)

theorem copied_of_turns {b : Nat → Byte} {u : Nat → State} {a : Word} (hwf : Sparse.wf (u 0).ppu.oam = true)
    (hturns : ∀ i, i < 256 → DmaTurn (a + BitVec.ofNat 16 i) (u i) (b i) (u (i + 1))) :
    ∀ k, k ≤ 256 → Copied (u 0) b k (u k)
  | 0, _ => ⟨(BitVec.add_zero _).symm, hwf, fun j hj => absurd hj (Nat.not_lt_zero j), rfl, rfl⟩
  | k + 1, hk => (copied_of_turns hwf hturns k (by omega)).turn (by omega) (hturns k (by omega))

/-- The stall of a DMA, as the statement says it. -/
theorem dmaStall_eq (cfg : Config) (cycles : Nat) :
    dmaStall cfg cycles = 513 + (if cycles % 2 = (match cfg.dmaOddExtra with | .odd => 1 | .even => 0) then 1 else 0) := by
  unfold dmaStall
  cases cfg.dmaOddExtra <;> dsimp only <;> split <;> rfl

/-- An answering copy of the page is an answering DMA. -/
theorem oamDma_of_copy {v : Byte} {s t : State} (h : oamCopy 256 (wordOf 0 v) s = .ok () t) :
    oamDma v s = .ok () { t with cpu := { s.cpu with stall := s.cpu.stall + dmaStall s.cfg s.cpu.cycles } } := by
  obtain ⟨hframe, hcpu⟩ := (oamCopy_frame _ _ s).1 t h
  rw [oamDma, h, Res.andThen_ok_left, hcpu, hframe.cfg]

theorem oamDma_of_copy_fault {v : Byte} {s t : State} {e : BusFault} (h : oamCopy 256 (wordOf 0 v) s = .fault e t) :
    oamDma v s = .fault e t := by
  rw [oamDma, h, Res.andThen_fault_left]

theorem wordOf_zero_toNat (v : Byte) : (wordOf 0 v).toNat = v.toNat * 0x100 := by
  show (v ++ (0#8 : Byte)).toNat = _
  rw [BitVec.toNat_append]
  simp [Nat.shiftLeft_eq]

/-- The addresses of a page. -/
theorem page_add (v : Byte) (i : Nat) : wordOf 0 v + BitVec.ofNat 16 i = BitVec.ofNat 16 (v.toNat * 0x100 + i) := by
  apply BitVec.eq_of_toNat_eq
  rw [BitVec.toNat_add, wordOf_zero_toNat]
  simp

theorem page_toNat (v : Byte) {i : Nat} (hi : i < 256) : (wordOf 0 v + BitVec.ofNat 16 i).toNat = v.toNat * 0x100 + i := by
  have := v.isLt
  rw [page_add, BitVec.toNat_ofNat]
  omega

/-- The copy is a first part and the rest. -/
theorem oamCopy_add : ∀ (m n : Nat) (a : Word) (s : State),
    oamCopy (m + n) a s = (oamCopy m a s).andThen fun _ t => oamCopy n (a + BitVec.ofNat 16 m) t
  | 0, n, a, s => by simp [oamCopy]
  | m + 1, n, a, s => by
    have haddr : a + BitVec.ofNat 16 (m + 1) = a + 1 + BitVec.ofNat 16 m := by
      rw [Nat.add_comm, BitVec.ofNat_add]
      exact (BitVec.add_assoc ..).symm
    rw [Nat.succ_add, oamCopy, oamCopy, haddr]
    cases memRead a s with
    | ok b t => exact oamCopy_add m n (a + 1) _
    | fault e t => rfl

theorem oamCopy_unmapped (n : Nat) {a : Word} {s : State} (h : ¬ s.mapped a) :
    oamCopy (n + 1) a s = .fault ⟨a, .read⟩ s := by
  rw [oamCopy, memRead_unmapped h, Res.andThen_fault_left]

/-- A turn on a byte of memory reads it without side effects. -/
theorem DmaTurn.memory {a : Word} {s t : State} {b m : Byte} (h : DmaTurn a s b t) (hm : s.memoryByte a = some m) :
    b = m ∧ t = { s with ppu := s.ppu.writeOam b } := by
  obtain ⟨r, hread, rfl⟩ := h
  rw [memRead_memoryByte hm] at hread
  cases hread
  exact ⟨rfl, rfl⟩

theorem State.memoryByte_of_range (s : State) {a : Word} (h : a.toNat < 0x2000 ∨ 0x6000 ≤ a.toNat) :
    ∃ m, s.memoryByte a = some m := by
  unfold State.memoryByte
  split
  · exact ⟨_, rfl⟩
  split
  · exact ⟨_, rfl⟩
  rw [if_pos (by omega)]
  exact ⟨_, rfl⟩

/-- Turns on a page of memory change OAM and its address alone. -/
theorem turns_of_memory {b : Nat → Byte} {u : Nat → State} {v : Byte} (hpage : v.toNat < 0x20 ∨ 0x60 ≤ v.toNat)
    (hturns : ∀ i, i < 256 → DmaTurn (wordOf 0 v + BitVec.ofNat 16 i) (u i) (b i) (u (i + 1))) :
    ∀ k, k ≤ 256 → ∃ oam addr, u k = { u 0 with ppu := { (u 0).ppu with oam := oam, oamAddr := addr } }
  | 0, _ => ⟨_, _, rfl⟩
  | k + 1, hk => by
    obtain ⟨oam, addr, hu⟩ := turns_of_memory hpage hturns k (by omega)
    have haddr := page_toNat v (i := k) (by omega)
    obtain ⟨m, hm⟩ := (u k).memoryByte_of_range (a := wordOf 0 v + BitVec.ofNat 16 k) (by omega)
    obtain ⟨-, hnext⟩ := (hturns k (by omega)).memory hm
    exact ⟨_, _, by rw [hnext, hu]; rfl⟩

/-- Settles O36: a reachable page is 256 turns, on memory without side effects; an unreachable one stops at its first unmapped
address, after 32 sinks on page 0x40. -/
theorem dmaCopiesAPageToOam : Obligations.DmaCopiesAPageToOam := by
  unfold Obligations.DmaCopiesAPageToOam
  intro v s hwf src reachable stalled
  have hsrc (i : Nat) : wordOf 0 v + BitVec.ofNat 16 i = src i := page_add v i
  have hstalled : stalled = { s.cpu with stall := s.cpu.stall + dmaStall s.cfg s.cpu.cycles } := by
    have hsum := congrArg (s.cpu.stall + ·) (dmaStall_eq s.cfg s.cpu.cycles)
    exact congrArg (fun n => { s.cpu with stall := n }) ((Nat.add_assoc ..).trans hsum.symm)
  have hturns (hr : reachable) : ∃ (b : Nat → Byte) (u : Nat → State), u 0 = s ∧
      oamDma v s = .ok () { u 256 with cpu := stalled } ∧
        ∀ i, i < 256 → DmaTurn (wordOf 0 v + BitVec.ofNat 16 i) (u i) (b i) (u (i + 1)) := by
    obtain ⟨t, ht⟩ := oamCopy_ok 256 (wordOf 0 v) s fun k hk => by
      have := page_toNat v hk
      rcases hr with hz | hlo | hhi
      · exact .inl hz
      · exact .inr (.inl (by omega))
      · exact .inr (.inr (by omega))
    obtain ⟨b, u, hfirst, rfl, hall⟩ := oamCopy_turns 256 ht
    exact ⟨b, u, hfirst, by rw [hstalled]; exact oamDma_of_copy ht, hall⟩
  have hlands {b : Nat → Byte} {t : State} (hc : Copied s b 256 t) (i : Byte) :
      Sparse.read t.ppu.oam (s.ppu.oamAddr + i).toNat = b i.toNat := by
    have h := hc.bytes i.toNat i.isLt
    rwa [BitVec.ofNat_toNat, BitVec.setWidth_eq] at h
  refine ⟨fun hr => ?turns, fun hpage => ?memory, fun hr => ?fault⟩
  case turns =>
    obtain ⟨b, u, rfl, hdma, hall⟩ := hturns hr
    have hc := copied_of_turns hwf hall 256 (Nat.le_refl _)
    exact ⟨b, u, rfl, fun i hi => hsrc i ▸ hall i hi, hdma, hlands hc, by simpa using hc.oamAddr, hc.ram, hc.cart⟩
  case memory =>
    have hr : reachable := .inr (by omega)
    obtain ⟨b, u, rfl, hdma, hall⟩ := hturns hr
    have hc := copied_of_turns hwf hall 256 (Nat.le_refl _)
    obtain ⟨oam, addr, hlast⟩ := turns_of_memory hpage hall 256 (Nat.le_refl _)
    have haddr : addr = (u 0).ppu.oamAddr := by
      have h := hc.oamAddr
      rw [hlast] at h
      simpa using h
    subst haddr
    refine ⟨oam, by rw [hdma, hlast], fun i => ?_⟩
    have hturn := hall i.toNat i.isLt
    have hplace := page_toNat v i.isLt
    obtain ⟨m, hm⟩ := (u i.toNat).memoryByte_of_range (a := wordOf 0 v + BitVec.ofNat 16 i.toNat) (by omega)
    have hbyte := hlands hc i
    rw [hlast, (hturn.memory hm).1] at hbyte
    have hkept := copied_of_turns hwf hall i.toNat (Nat.le_of_lt i.isLt)
    rw [← hsrc, ← State.memoryByte_congr hkept.ram hkept.cart, hm]
    exact congrArg some hbyte.symm
  case fault =>
    simp only [reachable, not_or, Nat.not_lt, Nat.not_le] at hr
    obtain ⟨hrouting, hlo, hhi⟩ := hr
    have hunmapped {t : State} (a : Word) (hcfg : t.cfg = s.cfg) (h1 : 0x4020 ≤ a.toNat) (h2 : a.toNat < 0x6000) :
        ¬ t.mapped a := by
      rintro (hz | hlt | hge)
      · exact hrouting (hcfg ▸ hz)
      · omega
      · omega
    have h0 := page_toNat v (i := 0) (by omega)
    by_cases hv : v = 0x40
    · subst hv
      obtain ⟨t, ht⟩ := oamCopy_ok 32 (wordOf 0 0x40) s fun k hk => .inr (.inl (by
        rw [page_toNat _ (by omega)]
        simp
        omega))
      obtain ⟨hframe, hcpu⟩ := (oamCopy_frame _ _ s).1 t ht
      refine ⟨t, oamDma_of_copy_fault ?_, hcpu⟩
      rw [if_pos rfl, oamCopy_add 32 224, ht, Res.andThen_ok_left]
      exact oamCopy_unmapped 223 (hunmapped _ hframe.cfg (by decide) (by decide))
    · have hne : v.toNat ≠ 0x40 := fun h => hv (BitVec.eq_of_toNat_eq h)
      refine ⟨s, oamDma_of_copy_fault ?_, rfl⟩
      rw [if_neg hv, ← hsrc, show BitVec.ofNat 16 0 = 0#16 from rfl, BitVec.add_zero]
      rw [show BitVec.ofNat 16 0 = 0#16 from rfl, BitVec.add_zero] at h0
      exact oamCopy_unmapped 255 (hunmapped _ rfl (by omega) (by omega))

end Sys2Proof.Machine
end

section
/-! SUPPORT. A picture step taken apart (61_ppu.md R554): the countdown and the advance, the actions that run while rendering,
each on its own part of the picture unit, and the vblank set and clear. The frame's length (R555), the vblank flag (R592, R593,
R595) and the NMI countdown (R591, R594), settled by it. -/

namespace Sys2Proof.Machine

open Sys2Proof.Claim

/-! ### The state in which the actions run -/

/-- The state after step 1 of a picture step: counted down and advanced (R554). -/
def stepStart (s : State) : State := advanceRaster (nmiCountdown s)

/-- The NMI countdown (R594): one down, and the request when it ends while the line is high. -/
theorem nmiCountdown_eq (s : State) :
    nmiCountdown s = { s with
      cpu := { s.cpu with latch := if s.ppu.nmiDelay = 1 ∧ s.ppu.nmiLine = true then .nmi else s.cpu.latch }
      ppu := { s.ppu with nmiDelay := s.ppu.nmiDelay - 1 } } := by
  unfold nmiCountdown
  split
  case h_1 h =>
    have hno : ¬ (s.ppu.nmiDelay = 1 ∧ s.ppu.nmiLine = true) := by omega
    have hstays : s.ppu.nmiDelay - 1 = s.ppu.nmiDelay := by omega
    rw [if_neg hno, hstays]
  case h_2 n h =>
    have hiff : (n = 0 && s.ppu.nmiLine) = true ↔ s.ppu.nmiDelay = 1 ∧ s.ppu.nmiLine = true := by simp [h]
    by_cases hreq : (n = 0 && s.ppu.nmiLine) = true
    · rw [if_pos (hiff.mp hreq), h]
      exact if_pos hreq
    · rw [if_neg (hiff.not.mp hreq), h]
      exact if_neg hreq

/-- The picture unit in which the actions run. -/
@[simps] def Ppu.started (p : Ppu) : Ppu :=
  { p with
    dot := p.advance.dot, scanline := p.advance.scanline, frame := p.advance.frame, f := p.advance.f
    nmiDelay := p.nmiDelay - 1 }

theorem stepStart_ppu (s : State) : (stepStart s).ppu = s.ppu.started := by
  have hadvance := Ppu.advance_frame s.ppu
  rw [stepStart, advanceRaster, nmiCountdown_ppu, Ppu.advance_nmiDelay]
  exact congrArg (fun p : Ppu => { p with nmiDelay := s.ppu.nmiDelay - 1 }) hadvance

/-- Only the latch and the picture unit are touched before the actions run. -/
theorem stepStart_eq (s : State) :
    stepStart s = { s with
      cpu := { s.cpu with latch := if s.ppu.nmiDelay = 1 ∧ s.ppu.nmiLine = true then .nmi else s.cpu.latch }
      ppu := s.ppu.started } := by
  rw [← stepStart_ppu, stepStart, nmiCountdown_eq]
  rfl

/-! ### The actions while rendering -/

/-- The picture unit with what drawing writes taken from `d` (R586), what fetching writes from `f` (R570 to R573), what the
evaluation of dot 257 writes from `sp` (R580), and the scroll `v`. -/
@[simps] def Ppu.acted (p d f sp : Ppu) (v : BitVec 15) : Ppu :=
  { p with
    sprite0Hit := d.sprite0Hit, back := d.back
    ntByte := f.ntByte, atBits := f.atBits, patLo := f.patLo, patHi := f.patHi, tileShift := f.tileShift
    spriteCount := sp.spriteCount, sprites := sp.sprites, spriteOverflow := sp.spriteOverflow
    v := v }

theorem renderVisible_eq (s : State) :
    renderVisible s = { s with ppu := s.ppu.acted (renderVisible s).ppu s.ppu s.ppu s.ppu.v } := by
  obtain ⟨hit, back, h⟩ := renderVisible_frame s
  rw [h]
  rfl

/-- A fetch does not look at what drawing writes, and does not write it. -/
theorem fetchCycle_drawn (s : State) (q : Ppu) :
    fetchCycle { s with ppu := s.ppu.acted q s.ppu s.ppu s.ppu.v } =
      { s with ppu := s.ppu.acted q (fetchCycle s).ppu s.ppu s.ppu.v } := by
  have hlook : (Ppu.renderLine (s.ppu.acted q s.ppu s.ppu s.ppu.v) && Ppu.fetchDot (s.ppu.acted q s.ppu s.ppu s.ppu.v)) =
      (s.ppu.renderLine && s.ppu.fetchDot) := rfl
  unfold fetchCycle
  rw [hlook]
  by_cases h : (s.ppu.renderLine && s.ppu.fetchDot) = true
  · rw [if_pos h, if_pos h]
    have hdot : (s.ppu.acted q s.ppu s.ppu s.ppu.v).dot = s.ppu.dot := rfl
    unfold fetchByDot
    dsimp only
    rw [hdot]
    split <;> rfl
  · rw [if_neg h, if_neg h]

/-- What the evaluation looks at: OAM, the line, the control latch, the slots, and picture space. -/
theorem evaluateEntry_congr {s t : State} (hcart : t.cart = s.cart) (hnt : t.ppu.nt = s.ppu.nt) (hpal : t.ppu.pal = s.ppu.pal)
    (hoam : t.ppu.oam = s.ppu.oam) (hline : t.ppu.scanline = s.ppu.scanline) (hctrl : t.ppu.ctrl = s.ppu.ctrl) :
    evaluateEntry t = evaluateEntry s := by
  have hbyte (i k : Nat) : t.ppu.oamByte i k = s.ppu.oamByte i k := by rw [Ppu.oamByte, hoam]; rfl
  have hheight : t.ppu.spriteHeight = s.ppu.spriteHeight := by rw [Ppu.spriteHeight, hctrl]; rfl
  have hrow (i : Nat) : t.ppu.spriteRow i = s.ppu.spriteRow i := by
    simp only [Ppu.spriteRow, hbyte, hline, hheight]
  have haddr (tile attr : Byte) (row : Nat) : spriteAddress t.ppu tile attr row = spriteAddress s.ppu tile attr row := by
    simp only [spriteAddress, hctrl]
  have hslot (i row : Nat) : spriteSlot t i row = spriteSlot s i row := by
    simp only [spriteSlot, spritePattern, hbyte, haddr, ppuRead_congr hcart hnt hpal]
  funext e i
  simp only [evaluateEntry, hrow, hslot]

theorem evaluation_congr {s t : State} (hcart : t.cart = s.cart) (hnt : t.ppu.nt = s.ppu.nt) (hpal : t.ppu.pal = s.ppu.pal)
    (hoam : t.ppu.oam = s.ppu.oam) (hline : t.ppu.scanline = s.ppu.scanline) (hctrl : t.ppu.ctrl = s.ppu.ctrl)
    (hsprites : t.ppu.sprites = s.ppu.sprites) : evaluation t = evaluation s := by
  rw [evaluation, evaluation, evaluateEntry_congr hcart hnt hpal hoam hline hctrl, hsprites]

/-- Dot 257 does not look at what drawing, fetching and scrolling write, and does not write it. -/
theorem spriteCycle_fetched (s : State) (q r : Ppu) (v : BitVec 15) :
    spriteCycle { s with ppu := s.ppu.acted q r s.ppu v } = { s with ppu := s.ppu.acted q r (spriteCycle s).ppu v } := by
  have heval : evaluation { s with ppu := s.ppu.acted q r s.ppu v } = evaluation s :=
    evaluation_congr rfl rfl rfl rfl rfl rfl rfl
  have hdot : (s.ppu.acted q r s.ppu v).dot = s.ppu.dot := rfl
  have hline : (s.ppu.acted q r s.ppu v).scanline = s.ppu.scanline := rfl
  unfold spriteCycle evaluateSprites
  rw [heval]
  dsimp only
  rw [hdot, hline]
  split
  · split <;> rfl
  · rfl

/-- The scroll does not look at what drawing and fetching write. -/
theorem Ppu.scrollCycle_fetched (p q r : Ppu) : (p.acted q r p p.v).scrollCycle = p.acted q r p p.scrollCycle.v := rfl

/-- The actions while rendering, part by part: each reads the picture unit as it was before them (R554, steps 2 to 6). -/
theorem renderingActions_eq {s : State} (h : s.ppu.rendering = true) :
    renderingActions s =
      { s with ppu := s.ppu.acted (renderVisible s).ppu (fetchCycle s).ppu (spriteCycle s).ppu s.ppu.scrollCycle.v } := by
  have hfetch : fetchCycle (renderVisible s) =
      { s with ppu := s.ppu.acted (renderVisible s).ppu (fetchCycle s).ppu s.ppu s.ppu.v } :=
    (congrArg fetchCycle (renderVisible_eq s)).trans (fetchCycle_drawn s (renderVisible s).ppu)
  rw [renderingActions, if_pos h]
  dsimp only
  rw [hfetch]
  dsimp only
  rw [Ppu.scrollCycle_fetched]
  exact spriteCycle_fetched s (renderVisible s).ppu (fetchCycle s).ppu s.ppu.scrollCycle.v

theorem Ppu.acted_self (p : Ppu) : p.acted p p p p.v = p := rfl

theorem renderingActions_off {s : State} (h : s.ppu.rendering = false) : renderingActions s = s := by
  rw [renderingActions, h]
  rfl

/-- Off the visible lines no pixel is drawn (R552, R554). -/
theorem renderVisible_off_line {s : State} (h : 239 < s.ppu.scanline) : renderVisible s = s := by
  have hvisible : s.ppu.visibleLine = false := decide_eq_false (by omega)
  rw [renderVisible, hvisible]
  rfl

/-- The states the actions can lead to: only what they write changes. -/
theorem renderingActions_frame (s : State) :
    ∃ d f sp v, renderingActions s = { s with ppu := s.ppu.acted d f sp v } := by
  cases h : s.ppu.rendering with
  | true => exact ⟨_, _, _, _, renderingActions_eq h⟩
  | false => exact ⟨s.ppu, s.ppu, s.ppu, s.ppu.v, by rw [renderingActions_off h, Ppu.acted_self]⟩

theorem renderingActions_back_off_line {s : State} (h : 239 < s.ppu.scanline) :
    (renderingActions s).ppu.back = s.ppu.back := by
  cases hr : s.ppu.rendering with
  | true =>
    rw [renderingActions_eq hr, renderVisible_off_line h]
    exact Ppu.acted_back ..
  | false => rw [renderingActions_off hr]

/-! ### The vblank set and clear -/

theorem vblankActions_set {s : State} (hl : s.ppu.scanline = 241) (hd : s.ppu.dot = 1) :
    vblankActions s = { s with ppu := s.ppu.setVblank s.cfg.nmiDelay } := if_pos ⟨hd, hl⟩

theorem vblankActions_clear {s : State} (hl : s.ppu.scanline = 261) (hd : s.ppu.dot = 1) :
    vblankActions s = { s with ppu := s.ppu.clearVblank s.cfg.nmiDelay } := by
  rw [vblankActions, if_neg (by omega), if_pos ⟨hd, hl⟩]

theorem vblankActions_none {s : State} (h241 : ¬ (s.ppu.scanline = 241 ∧ s.ppu.dot = 1))
    (h261 : ¬ (s.ppu.scanline = 261 ∧ s.ppu.dot = 1)) : vblankActions s = s := by
  rw [vblankActions, if_neg (h241 ∘ And.symm), if_neg (h261 ∘ And.symm)]

/-- A picture step is its actions, on the advanced state, then the vblank set or clear. -/
theorem ppuStep_eq (s : State) : ppuStep s = vblankActions (renderingActions (stepStart s)) := rfl

theorem Ppu.raster_eq {p q : Ppu} (h : p.raster = q.raster) :
    p.dot = q.dot ∧ p.scanline = q.scanline ∧ p.frame = q.frame ∧ p.f = q.f := by
  simpa [Ppu.raster] using h

/-- The raster a picture step moves to is that of the state in which its actions run. -/
theorem ppuStep_place (s : State) :
    (ppuStep s).ppu.dot = (stepStart s).ppu.dot ∧ (ppuStep s).ppu.scanline = (stepStart s).ppu.scanline := by
  obtain ⟨hdot, hline, -, -⟩ := Ppu.raster_eq
    ((vblankActions_raster (renderingActions (stepStart s))).trans (renderingActions_raster (stepStart s)))
  exact ⟨hdot, hline⟩

theorem renderingActions_place (s : State) :
    (renderingActions s).ppu.dot = s.ppu.dot ∧ (renderingActions s).ppu.scanline = s.ppu.scanline := by
  obtain ⟨hdot, hline, -, -⟩ := Ppu.raster_eq (renderingActions_raster s)
  exact ⟨hdot, hline⟩

/-- A picture step by where it moves to: the vblank set, the clear, or neither. -/
theorem ppuStep_at241 {s : State} (hl : (ppuStep s).ppu.scanline = 241) (hd : (ppuStep s).ppu.dot = 1) :
    ppuStep s = { renderingActions (stepStart s) with
      ppu := (renderingActions (stepStart s)).ppu.setVblank (renderingActions (stepStart s)).cfg.nmiDelay } := by
  obtain ⟨hdot, hline⟩ := ppuStep_place s
  obtain ⟨hdot', hline'⟩ := renderingActions_place (stepStart s)
  exact vblankActions_set (s := renderingActions (stepStart s)) (by omega) (by omega)

theorem ppuStep_at261 {s : State} (hl : (ppuStep s).ppu.scanline = 261) (hd : (ppuStep s).ppu.dot = 1) :
    ppuStep s = { renderingActions (stepStart s) with
      ppu := (renderingActions (stepStart s)).ppu.clearVblank (renderingActions (stepStart s)).cfg.nmiDelay } := by
  obtain ⟨hdot, hline⟩ := ppuStep_place s
  obtain ⟨hdot', hline'⟩ := renderingActions_place (stepStart s)
  exact vblankActions_clear (s := renderingActions (stepStart s)) (by omega) (by omega)

theorem ppuStep_elsewhere {s : State} (h241 : ¬ ((ppuStep s).ppu.scanline = 241 ∧ (ppuStep s).ppu.dot = 1))
    (h261 : ¬ ((ppuStep s).ppu.scanline = 261 ∧ (ppuStep s).ppu.dot = 1)) :
    ppuStep s = renderingActions (stepStart s) := by
  obtain ⟨hdot, hline⟩ := ppuStep_place s
  obtain ⟨hdot', hline'⟩ := renderingActions_place (stepStart s)
  exact vblankActions_none (s := renderingActions (stepStart s)) (by omega) (by omega)

/-- Settles O44: the set and the clear by their own step; the actions before them leave vblank and the front buffer, and on line
241 the back buffer too. -/
theorem vblankSetsAndClears : Obligations.VblankSetsAndClears := by
  unfold Obligations.VblankSetsAndClears
  intro s t at241 at261
  obtain ⟨d, f, sp, v, hactions⟩ := renderingActions_frame (stepStart s)
  have hfront : (renderingActions (stepStart s)).ppu.front = s.ppu.front := by
    simp [hactions, stepStart_ppu]
  have hvblank : (renderingActions (stepStart s)).ppu.vblank = s.ppu.vblank := by
    simp [hactions, stepStart_ppu]
  refine ⟨fun ⟨hl, hd⟩ => ?set, fun ⟨hl, hd⟩ => ?clear, fun h241 h261 => ?neither⟩
  case set =>
    have hline : (stepStart s).ppu.scanline = 241 := (ppuStep_place s).2.symm.trans hl
    have hback := renderingActions_back_off_line (s := stepStart s) (by omega)
    rw [stepStart_ppu] at hback
    have ht : t = _ := ppuStep_at241 hl hd
    rw [ht]
    exact ⟨rfl, hback, hfront⟩
  case clear =>
    have ht : t = _ := ppuStep_at261 hl hd
    rw [ht]
    exact ⟨rfl, rfl, rfl, hfront⟩
  case neither =>
    have ht : t = _ := ppuStep_elsewhere h241 h261
    rw [ht]
    exact ⟨hvblank, hfront⟩

/-! ### The NMI countdown -/

theorem renderingActions_cpu (s : State) : (renderingActions s).cpu = s.cpu := by
  obtain ⟨d, f, sp, v, h⟩ := renderingActions_frame s
  rw [h]

theorem vblankActions_cpu (s : State) : (vblankActions s).cpu = s.cpu := by
  obtain ⟨vb, hit, ovf, front, back, prev, delay, h⟩ := vblankActions_frame s
  rw [h]

/-- A picture step reaches the processor by the NMI request alone. -/
theorem ppuStep_cpu (s : State) :
    (ppuStep s).cpu =
      { s.cpu with latch := if s.ppu.nmiDelay = 1 ∧ s.ppu.nmiLine = true then .nmi else s.cpu.latch } := by
  rw [ppuStep_eq, vblankActions_cpu, renderingActions_cpu, stepStart_eq]

theorem Ppu.nmiLine_iff (p : Ppu) : p.nmiLine = true ↔ p.ctrl.nmiOutput = true ∧ p.vblank = true := by
  simp [Ppu.nmiLine]

/-- The countdown after a vblank set: armed by a rising edge of the line, which is now the output enable (R591, R592). -/
theorem Ppu.setVblank_nmiDelay (delay : Nat) (p : Ppu) :
    (p.setVblank delay).nmiDelay =
      if p.ctrl.nmiOutput = true ∧ p.nmiPrevious = false then delay else p.nmiDelay := by
  simp [Ppu.setVblank, Ppu.nmiChange, Ppu.nmiLine]

/-- Settles O45: the latch by the countdown, the countdown by the vblank set or by nothing after it. -/
theorem nmiFiresAfterCountdown : Obligations.NmiFiresAfterCountdown := by
  unfold Obligations.NmiFiresAfterCountdown
  have hdelay (s : State) : (renderingActions (stepStart s)).ppu.nmiDelay = s.ppu.nmiDelay - 1 := by
    obtain ⟨d, f, sp, v, h⟩ := renderingActions_frame (stepStart s)
    simp [h, stepStart_ppu]
  refine ⟨fun s h => ?idle, fun s h => ?counting, fun s hl hd => ?set, fun s hplace => ?elsewhere⟩
  case idle => rw [ppuStep_cpu, if_neg (by omega)]
  case counting => simp only [ppuStep_cpu, Ppu.nmiLine_iff]
  case set =>
    rw [ppuStep_at241 hl hd]
    show Ppu.nmiDelay (Ppu.setVblank _ _) = _
    rw [Ppu.setVblank_nmiDelay, hdelay]
    obtain ⟨d, f, sp, v, h⟩ := renderingActions_frame (stepStart s)
    have hcfg : (stepStart s).cfg = s.cfg := by rw [stepStart_eq]
    simp [h, stepStart_ppu, hcfg]
  case elsewhere =>
    rw [ppuStep_elsewhere (fun h => hplace ⟨h.2, .inl h.1⟩) fun h => hplace ⟨h.2, .inr h.1⟩]
    exact hdelay s

/-! ### The frame's length -/

theorem requestIrq_ppu (s : State) : (requestIrq s).ppu = s.ppu := by
  unfold requestIrq
  split <;> rfl

/-- A mapper step leaves the picture unit (62_mappers.md R651, R697). -/
theorem mapperStep_ppu (s : State) : (mapperStep s).ppu = s.ppu := by
  unfold mapperStep
  split
  · split
    · unfold clockCounter
      dsimp only
      split
      · exact requestIrq_ppu _
      · rfl
    · rfl
  · rfl
  · rfl

theorem ppuStep_mask (s : State) : (ppuStep s).ppu.mask = s.ppu.mask := by
  obtain ⟨vb, hit, ovf, front, back, prev, delay, hvblank⟩ := vblankActions_frame (renderingActions (stepStart s))
  obtain ⟨d, f, sp, v, hactions⟩ := renderingActions_frame (stepStart s)
  rw [ppuStep_eq, hvblank]
  simp [hactions, stepStart_ppu]

/-- Where the raster is, and whether rendering is enabled. -/
structure RasterAt (rendering : Bool) (r : Nat × Nat × Nat × Bool) (s : State) : Prop where
  raster : s.ppu.raster = r
  enabled : s.ppu.rendering = rendering

/-- One picture and mapper step, by the advance from where the raster is. -/
theorem RasterAt.step {e : Bool} {r : Nat × Nat × Nat × Bool} {s : State} (h : RasterAt e r s) {p : Ppu}
    (hp : s.ppu.advance = p) : RasterAt e p.raster (runPicture 1 s) where
  raster := by
    show (mapperStep (ppuStep s)).ppu.raster = _
    rw [mapperStep_ppu, ppuStep_raster, hp]
  enabled := by
    show (mapperStep (ppuStep s)).ppu.rendering = _
    rw [mapperStep_ppu, Ppu.rendering, ppuStep_mask]
    exact h.enabled

section
variable {e f : Bool} {dot line frame : Nat} {s : State}

theorem RasterAt.place (h : RasterAt e (dot, line, frame, f) s) :
    s.ppu.dot = dot ∧ s.ppu.scanline = line ∧ s.ppu.frame = frame ∧ s.ppu.f = f := by
  simpa [Ppu.raster] using h.raster

/-- Steps inside a line move the dot alone, up to the skip (R551). -/
theorem RasterAt.dots (k : Nat) (h : RasterAt e (dot, line, frame, f) s) (hk : dot + k ≤ 340)
    (hskip : ¬ (e = true ∧ f = true ∧ line = 261 ∧ 339 < dot + k)) :
    RasterAt e (dot + k, line, frame, f) (runPicture k s) := by
  induction k with
  | zero => exact h
  | succ k ih =>
    have hprev := ih (by omega) (by rintro ⟨he, hf, hl, hd⟩; exact hskip ⟨he, hf, hl, by omega⟩)
    obtain ⟨hdot, hline, hframe, hf⟩ := hprev.place
    have hnot : ¬ (runPicture k s).ppu.AtSkip := by
      rintro ⟨h1, h2, h3, h4⟩
      exact hskip ⟨hprev.enabled ▸ h1, hf ▸ h2, hline ▸ h3, by omega⟩
    have hnext := hprev.step (Ppu.advance_within_line hnot (by omega))
    rw [runPicture_add]
    simpa [Ppu.raster, hdot, hline, hframe, hf, Nat.add_assoc] using hnext

/-- The step past the end of a line that is not the last (R551). -/
theorem RasterAt.lineEnd (h : RasterAt e (dot, line, frame, f) s) (hd : 340 ≤ dot) (hl : line < 261) :
    RasterAt e (0, line + 1, frame, f) (runPicture 1 s) := by
  obtain ⟨hdot, hline, hframe, hf⟩ := h.place
  have hnext := h.step (Ppu.advance_at_line_end (by omega) (by omega))
  simpa [Ppu.raster, hline, hframe, hf] using hnext

/-- The rest of a line that is not the last. -/
theorem RasterAt.restOfLine (k : Nat) (h : RasterAt e (dot, line, frame, f) s) (hk : dot + k = 340) (hl : line < 261) :
    RasterAt e (0, line + 1, frame, f) (runPicture (k + 1) s) := by
  rw [runPicture_add]
  exact (h.dots k (by omega) (by omega)).lineEnd (by omega) hl

theorem RasterAt.wholeLines (k : Nat) (h : RasterAt e (0, line, frame, f) s) (hk : line + k ≤ 261) :
    RasterAt e (0, line + k, frame, f) (runPicture (341 * k) s) := by
  induction k with
  | zero => exact h
  | succ k ih =>
    rw [Nat.mul_succ, runPicture_add, ← Nat.add_assoc]
    exact (ih (by omega)).restOfLine 340 (by omega) (by omega)

/-- The step past the end of a frame, at the skip or after the last dot (R551). -/
theorem RasterAt.frameEnd (h : RasterAt e (dot, 261, frame, f) s) (hd : (e = true ∧ f = true ∧ dot = 339) ∨ 340 ≤ dot) :
    RasterAt e (0, 0, frame + 1, !f) (runPicture 1 s) := by
  obtain ⟨hdot, hline, hframe, hf⟩ := h.place
  have hadvance : s.ppu.advance = s.ppu.nextFrame := by
    rcases hd with ⟨he, hodd, hskip⟩ | hlast
    · exact Ppu.advance_of_skip ⟨h.enabled.trans he, hf.trans hodd, hline, hdot.trans hskip⟩
    · exact Ppu.advance_at_frame_end (by omega) (by omega)
  have hnext := h.step hadvance
  simpa [Ppu.raster, Ppu.nextFrame, hframe, hf] using hnext

/-- The rest of the last line, up to the skip or to the last dot. -/
theorem RasterAt.restOfFrame (k : Nat) (h : RasterAt e (dot, 261, frame, f) s)
    (hk : (e = true ∧ f = true ∧ dot + k = 339) ∨ (¬ (e = true ∧ f = true) ∧ dot + k = 340)) :
    RasterAt e (0, 0, frame + 1, !f) (runPicture (k + 1) s) := by
  rw [runPicture_add]
  rcases hk with ⟨he, hf, hk⟩ | ⟨hskip, hk⟩
  · exact (h.dots k (by omega) (by omega)).frameEnd (.inl ⟨he, hf, hk⟩)
  · exact (h.dots k (by omega) fun ⟨he, hf, _⟩ => hskip ⟨he, hf⟩).frameEnd (.inr (by omega))

/-- The last line of a frame, with and without the skip. -/
theorem RasterAt.lastLine (h : RasterAt e (0, 261, frame, f) s) :
    RasterAt e (0, 0, frame + 1, !f) (runPicture (if e = true ∧ f = true then 340 else 341) s) := by
  by_cases hskip : e = true ∧ f = true
  · rw [if_pos hskip]
    exact h.restOfFrame 339 (.inl ⟨hskip.1, hskip.2, rfl⟩)
  · rw [if_neg hskip]
    exact h.restOfFrame 340 (.inr ⟨hskip, rfl⟩)

end

/-- Settles O43: the last line, with its skip, and 261 whole lines. -/
theorem frameLength : Obligations.FrameLength := by
  unfold Obligations.FrameLength
  intro s hdot hline t
  have hstart : RasterAt s.ppu.rendering (0, 261, s.ppu.frame, s.ppu.f) s := ⟨by rw [Ppu.raster, hdot, hline], rfl⟩
  have hframe := hstart.lastLine.wholeLines 261 (by omega)
  rw [← runPicture_add] at hframe
  have hlength : (if s.ppu.rendering = true ∧ s.ppu.f = true then 340 else 341) + 341 * 261 =
      if s.ppu.rendering = true ∧ s.ppu.f = true then 89341 else 89342 := by split <;> rfl
  rw [hlength] at hframe
  have hplace := hframe.place
  rw [Nat.zero_add] at hplace
  exact hplace

end Sys2Proof.Machine
end

section
/-! SUPPORT. The background's scroll register, fetch addresses and packed rows as fields and bits (61_ppu.md R570 to R576), and
the nibbles of packed rows that the tile store and the sprites share (R573, R581). -/

namespace Sys2Proof.Machine

open Sys2Proof.Claim

/-! ### Fields -/

/-- An append as a sum. -/
theorem append_toNat {m n : Nat} (x : BitVec m) (y : BitVec n) : (x ++ y).toNat = 2 ^ n * x.toNat + y.toNat := by
  rw [BitVec.toNat_append, Nat.two_pow_add_eq_or_of_lt y.isLt, Nat.shiftLeft_eq, Nat.mul_comm]

/-- A field of a number, as a quotient and a remainder. -/
theorem extractLsb'_toNat_div {w : Nat} (v : BitVec w) (start len : Nat) :
    (v.extractLsb' start len).toNat = v.toNat / 2 ^ start % 2 ^ len := by
  rw [BitVec.extractLsb'_toNat, Nat.shiftRight_eq_div_pow]

/-- The bits of a number from `n` on are those of its quotient by `2 ^ n`. -/
theorem getLsbD_div {w : Nat} (v : BitVec w) {n k : Nat} (h : n ≤ k) : v.getLsbD k = (v.toNat / 2 ^ n).testBit (k - n) := by
  rw [Nat.testBit_div_two_pow, Nat.sub_add_cancel h]
  rfl

/-- The bits of a number below `n` are those of its remainder by `2 ^ n`. -/
theorem getLsbD_mod {w : Nat} (v : BitVec w) {n k : Nat} (h : k < n) : v.getLsbD k = (v.toNat % 2 ^ n).testBit k := by
  rw [Nat.testBit_mod_two_pow, decide_eq_true h, Bool.true_and]
  rfl

/-! ### IncrementX and IncrementY -/

/-- Coarse X is all ones exactly when the masked address is. -/
theorem coarseX_full_iff (v : BitVec 15) : v &&& 0x001F#15 = 31#15 ↔ (v.extractLsb' 0 5).toNat = 31 := by
  rw [extractLsb'_toNat_div, ← BitVec.toNat_inj, BitVec.toNat_and]
  simp [show v.toNat &&& 31 = v.toNat % 2 ^ 5 from Nat.and_two_pow_sub_one_eq_mod v.toNat 5]

theorem incrementX_full {v : BitVec 15} (h : (v.extractLsb' 0 5).toNat = 31) :
    incrementX v = (v &&& 0x7FE0#15) ^^^ 0x0400#15 := if_pos ((coarseX_full_iff v).mpr h)

theorem incrementX_carryless {v : BitVec 15} (h : (v.extractLsb' 0 5).toNat ≠ 31) : incrementX v = v + 1 :=
  if_neg (h ∘ (coarseX_full_iff v).mp)

theorem incrementX_fields (v : BitVec 15) :
    ((incrementX v).extractLsb' 0 5).toNat = ((v.extractLsb' 0 5).toNat + 1) % 32 ∧
      (incrementX v).getLsbD 10 = (v.getLsbD 10 != decide ((v.extractLsb' 0 5).toNat = 31)) ∧
      ∀ k, k < 15 → 5 ≤ k → k ≠ 10 → (incrementX v).getLsbD k = v.getLsbD k := by
  by_cases h : (v.extractLsb' 0 5).toNat = 31
  · have hlow : ((v &&& 0x7FE0#15) ^^^ 0x0400#15).extractLsb' 0 5 = 0#5 := by
      apply BitVec.eq_of_getLsbD_eq
      intro i hi
      interval_cases i <;> simp
    rw [incrementX_full h, hlow, h]
    refine ⟨rfl, by simp, fun k hk h5 h10 => ?_⟩
    interval_cases k <;> simp_all
  · rw [incrementX_carryless h]
    rw [extractLsb'_toNat_div] at h
    have hsum : (v + 1).toNat = (v.toNat + 1) % 2 ^ 15 := BitVec.toNat_add v 1
    have hlt := v.isLt
    have hquot : (v + 1).toNat / 2 ^ 5 = v.toNat / 2 ^ 5 := by omega
    have hbit (k : Nat) (h5 : 5 ≤ k) : (v + 1).getLsbD k = v.getLsbD k := by
      rw [getLsbD_div _ h5, getLsbD_div _ h5, hquot]
    refine ⟨?_, ?_, fun k _ h5 _ => hbit k h5⟩
    · rw [extractLsb'_toNat_div, extractLsb'_toNat_div]
      omega
    · rw [hbit 10 (by omega), extractLsb'_toNat_div, decide_eq_false h, Bool.bne_false]

/-- Fine Y is all ones exactly when the masked address is. -/
theorem fineY_full_iff (v : BitVec 15) : v &&& 0x7000#15 = 0x7000#15 ↔ (v.extractLsb' 12 3).toNat = 7 := by
  have hsplit : v &&& 0x7000#15 = v.extractLsb' 12 3 ++ 0#12 := by
    apply BitVec.eq_of_getLsbD_eq
    intro i hi
    rw [BitVec.getLsbD_append]
    interval_cases i <;> simp
  rw [hsplit, ← BitVec.toNat_inj, append_toNat]
  simp
  omega

/-- Coarse Y, as the increment takes it out of the address. -/
theorem coarseY_eq (v : BitVec 15) : ((v &&& 0x0FFF#15) &&& 0x03E0#15) >>> 5 = (v.extractLsb' 5 5).setWidth 15 := by
  apply BitVec.eq_of_getLsbD_eq
  intro i hi
  interval_cases i <;> simp

/-- The address without fine Y, with coarse Y replaced by the low five bits of `y`. -/
theorem replaceCoarseY_fields (a y : BitVec 15) (hy : y.toNat < 32) :
    ((a &&& 0x7C1F#15) ||| (y <<< 5)).extractLsb' 5 5 = y.setWidth 5 ∧
      ∀ k, k < 15 → k < 5 ∨ 9 < k → ((a &&& 0x7C1F#15) ||| (y <<< 5)).getLsbD k = a.getLsbD k := by
  have hhigh (k : Nat) (hk : 5 ≤ k) : y.getLsbD k = false := by
    refine Nat.testBit_lt_two_pow (Nat.lt_of_lt_of_le hy ?_)
    exact Nat.pow_le_pow_right (n := 2) (by omega) hk
  constructor
  · apply BitVec.eq_of_getLsbD_eq
    intro i hi
    interval_cases i <;> simp
  · intro k hk hside
    have h5 := hhigh 5 (by omega)
    have h6 := hhigh 6 (by omega)
    have h7 := hhigh 7 (by omega)
    have h8 := hhigh 8 (by omega)
    have h9 := hhigh 9 (by omega)
    interval_cases k <;> simp_all

theorem incrementY_carryless {v : BitVec 15} (h : (v.extractLsb' 12 3).toNat ≠ 7) : incrementY v = v + 0x1000#15 :=
  if_pos (h ∘ (fineY_full_iff v).mp)

/-- What coarse Y becomes when fine Y wraps (R575). -/
def nextCoarseY (y : BitVec 15) : BitVec 15 := if y = 29#15 ∨ y = 31#15 then 0#15 else y + 1

theorem incrementY_carry {v : BitVec 15} (h : (v.extractLsb' 12 3).toNat = 7) :
    incrementY v =
      ((if (v.extractLsb' 5 5).setWidth 15 = 29#15 then (v &&& 0x0FFF#15) ^^^ 0x0800#15 else v &&& 0x0FFF#15) &&& 0x7C1F#15) |||
        (nextCoarseY ((v.extractLsb' 5 5).setWidth 15) <<< 5) := by
  rw [incrementY, if_neg (not_not.mpr ((fineY_full_iff v).mpr h)), ← coarseY_eq]
  rfl

theorem nextCoarseY_toNat (c : BitVec 5) :
    (nextCoarseY (c.setWidth 15)).toNat = if c.toNat = 29 ∨ c.toNat = 31 then 0 else c.toNat + 1 := by
  revert c
  decide

theorem setWidth_eq_29_iff (c : BitVec 5) : c.setWidth 15 = 29#15 ↔ c.toNat = 29 := by
  revert c
  decide

theorem incrementY_fields (v : BitVec 15) :
    ((incrementY v).extractLsb' 12 3).toNat = ((v.extractLsb' 12 3).toNat + 1) % 8 ∧
      ((incrementY v).extractLsb' 5 5).toNat =
        (if (v.extractLsb' 12 3).toNat < 7 then (v.extractLsb' 5 5).toNat
        else if (v.extractLsb' 5 5).toNat = 29 ∨ (v.extractLsb' 5 5).toNat = 31 then 0 else (v.extractLsb' 5 5).toNat + 1) ∧
      (incrementY v).getLsbD 11 =
        (v.getLsbD 11 != decide ((v.extractLsb' 12 3).toNat = 7 ∧ (v.extractLsb' 5 5).toNat = 29)) ∧
      (incrementY v).getLsbD 10 = v.getLsbD 10 ∧ (incrementY v).extractLsb' 0 5 = v.extractLsb' 0 5 := by
  have hfine := (v.extractLsb' 12 3).isLt
  by_cases h : (v.extractLsb' 12 3).toNat = 7
  · rw [incrementY_carry h, h]
    generalize hc : v.extractLsb' 5 5 = c
    have hnext := nextCoarseY_toNat c
    have hlt : (nextCoarseY (c.setWidth 15)).toNat < 32 := by
      have := c.isLt
      split at hnext <;> omega
    generalize ha : (if c.setWidth 15 = 29#15 then (v &&& 0x0FFF#15) ^^^ 0x0800#15 else v &&& 0x0FFF#15) = a
    obtain ⟨hcoarse, hother⟩ := replaceCoarseY_fields a _ hlt
    have habits (k : Nat) (hk : k < 15) : a.getLsbD k = (decide (k < 12) && (v.getLsbD k != decide (k = 11 ∧ c.toNat = 29))) := by
      rw [← ha]
      by_cases h29 : c.toNat = 29
      · rw [if_pos ((setWidth_eq_29_iff c).mpr h29)]
        interval_cases k <;> simp [h29]
      · rw [if_neg (h29 ∘ (setWidth_eq_29_iff c).mp)]
        interval_cases k <;> simp [h29]
    refine ⟨?fine, ?coarse, ?bit11, ?bit10, ?low⟩
    case fine =>
      have hzero : ((a &&& 0x7C1F#15) ||| (nextCoarseY (c.setWidth 15) <<< 5)).extractLsb' 12 3 = 0#3 := by
        apply BitVec.eq_of_getLsbD_eq
        intro i hi
        rw [BitVec.getLsbD_extractLsb', hother _ (by omega) (by omega), habits _ (by omega)]
        simp
      rw [hzero]
      rfl
    case coarse =>
      rw [hcoarse, BitVec.toNat_setWidth, Nat.mod_eq_of_lt hlt, hnext, if_neg (show ¬ 7 < 7 by omega)]
    case bit11 =>
      rw [hother 11 (by omega) (by omega), habits 11 (by omega)]
      simp
    case bit10 =>
      rw [hother 10 (by omega) (by omega), habits 10 (by omega)]
      simp
    case low =>
      apply BitVec.eq_of_getLsbD_eq
      intro i hi
      rw [BitVec.getLsbD_extractLsb', BitVec.getLsbD_extractLsb', hother _ (by omega) (by omega), habits _ (by omega)]
      have h12 : i < 12 := by omega
      have h11 : i ≠ 11 := by omega
      simp [h12, h11]
  · rw [incrementY_carryless h, extractLsb'_toNat_div, extractLsb'_toNat_div, extractLsb'_toNat_div, extractLsb'_toNat_div]
    rw [extractLsb'_toNat_div] at h hfine
    have hsum : (v + 0x1000#15).toNat = (v.toNat + 0x1000) % 2 ^ 15 := BitVec.toNat_add v _
    have hlt := v.isLt
    have hrem : (v + 0x1000#15).toNat % 2 ^ 12 = v.toNat % 2 ^ 12 := by omega
    have hbit (k : Nat) (hk : k < 12) : (v + 0x1000#15).getLsbD k = v.getLsbD k := by
      rw [getLsbD_mod _ hk, getLsbD_mod _ hk, hrem]
    refine ⟨by omega, ?_, ?_, hbit 10 (by omega), ?_⟩
    · rw [if_pos (by omega)]
      omega
    · rw [hbit 11 (by omega), decide_eq_false fun hc => h hc.1, Bool.bne_false]
    · apply BitVec.eq_of_getLsbD_eq
      intro i hi
      rw [BitVec.getLsbD_extractLsb', BitVec.getLsbD_extractLsb', hbit _ (by omega)]

/-! ### CopyX and CopyY -/

theorem copyX_getLsbD (v t : BitVec 15) {k : Nat} (hk : k < 15) :
    (copyX v t).getLsbD k = if k < 5 ∨ k = 10 then t.getLsbD k else v.getLsbD k := by
  unfold copyX
  interval_cases k <;> simp

theorem copyY_getLsbD (v t : BitVec 15) {k : Nat} (hk : k < 15) :
    (copyY v t).getLsbD k = if k < 5 ∨ k = 10 then v.getLsbD k else t.getLsbD k := by
  unfold copyY
  interval_cases k <;> simp

/-! ### Packed rows -/

/-- Four bits of a packed row, counted from the right. -/
def nibble (d : BitVec 32) (k : Nat) : BitVec 4 := d.extractLsb' (4 * k) 4

theorem nibble_push_zero (d : BitVec 32) (x : BitVec 4) : nibble ((d <<< 4) ||| x.setWidth 32) 0 = x := by
  unfold nibble
  apply BitVec.eq_of_getLsbD_eq
  intro i hi
  interval_cases i <;> simp

theorem nibble_push_succ (d : BitVec 32) (x : BitVec 4) {k : Nat} (hk : k < 7) :
    nibble ((d <<< 4) ||| x.setWidth 32) (k + 1) = nibble d k := by
  unfold nibble
  apply BitVec.eq_of_getLsbD_eq
  intro i hi
  have hx : x.getLsbD (4 * (k + 1) + i) = false := BitVec.getLsbD_of_ge _ _ (by omega)
  have hd : 4 * (k + 1) + i - 4 = 4 * k + i := by omega
  have h32 : 4 * (k + 1) + i < 32 := by omega
  have hge : ¬ 4 * (k + 1) + i < 4 := by omega
  have hlow : 4 * k + i < 32 := by omega
  simp [hx, hd, h32, hge, BitVec.getLsbD_eq_getElem hlow]

/-- Pixel `i` of a packed row, from the left: the base with the two planes' bits (R573, R581). -/
theorem packPixels_nibble (base : BitVec 4) (lo hi : Byte) (bitOf : Nat → Nat) {i : Nat} (h : i < 8) :
    nibble (packPixels base lo hi bitOf) (7 - i) =
      base ||| (BitVec.ofBool (lo.getLsbD (bitOf i))).setWidth 4 |||
        ((BitVec.ofBool (hi.getLsbD (bitOf i))).setWidth 4 <<< 1) := by
  unfold packPixels
  interval_cases i <;> simp only [List.foldl, nibble_push_zero, nibble_push_succ, Nat.reduceSub, Nat.reduceLT]

/-- Pixel `i` of the low half of the shift register after a tile store is joined by the packed row's (R573). -/
theorem storeTileData_pixel (p : Ppu) {i : Nat} (h : i < 8) :
    (p.storeTileData.tileShift >>> (4 * (7 - i))).setWidth 4 =
      (p.tileShift >>> (4 * (7 - i))).setWidth 4 ||| p.atBits ||| (BitVec.ofBool (p.patLo.getLsbD (7 - i))).setWidth 4 |||
        ((BitVec.ofBool (p.patHi.getLsbD (7 - i))).setWidth 4 <<< 1) := by
  have hpack := packPixels_nibble p.atBits p.patLo p.patHi (7 - ·) h
  rw [BitVec.or_assoc, BitVec.or_assoc, ← BitVec.or_assoc p.atBits, ← hpack]
  apply BitVec.eq_of_getLsbD_eq
  intro j hj
  have h64 : 4 * (7 - i) + j < 64 := by omega
  simp [Ppu.storeTileData, nibble, hj, h64]

/-- The store leaves the high half. -/
theorem storeTileData_high (p : Ppu) : p.storeTileData.tileShift.extractLsb' 32 32 = p.tileShift.extractLsb' 32 32 := by
  apply BitVec.eq_of_getLsbD_eq
  intro j hj
  simp [Ppu.storeTileData]

/-! ### Fetch addresses -/

theorem nameTableAddress_toNat (v : BitVec 15) : (0x2000#15 ||| (v &&& 0x0FFF#15)).toNat = 0x2000 + v.toNat % 0x1000 := by
  have hlow : v.toNat % 0x1000 < 2 ^ 13 := Nat.lt_trans (Nat.mod_lt _ (by decide)) (by decide)
  have hmask : v.toNat &&& 0xFFF = v.toNat % 0x1000 := Nat.and_two_pow_sub_one_eq_mod v.toNat 12
  have hor := Nat.two_pow_add_eq_or_of_lt hlow 1
  rw [BitVec.toNat_or, BitVec.toNat_and]
  show 0x2000 ||| (v.toNat &&& 0xFFF) = _
  rw [hmask]
  exact hor.symm

/-- `attributeAddress` by its fields: nametable, row of four tiles, column of four tiles (R571). -/
theorem attributeAddress_eq (v : BitVec 15) :
    attributeAddress v =
      2#3 ++ (v.extractLsb' 10 2 ++ (15#4 ++ (v.extractLsb' 7 3 ++ v.extractLsb' 2 3))) := by
  unfold attributeAddress
  apply BitVec.eq_of_getLsbD_eq
  intro i hi
  rw [BitVec.getLsbD_append, BitVec.getLsbD_append, BitVec.getLsbD_append, BitVec.getLsbD_append]
  interval_cases i <;> simp

theorem attributeAddress_toNat (v : BitVec 15) :
    (attributeAddress v).toNat =
      0x23C0 + 0x400 * (v.toNat / 0x400 % 4) + 8 * (v.toNat / 32 % 32 / 4) + v.toNat % 32 / 4 := by
  rw [attributeAddress_eq, append_toNat, append_toNat, append_toNat, append_toNat, extractLsb'_toNat_div,
    extractLsb'_toNat_div, extractLsb'_toNat_div]
  simp
  omega

/-- Which two bits of the byte at `attributeAddress`: by bit 1 of coarse Y and of coarse X (R571). -/
theorem attributeShift_eq (v : BitVec 15) :
    attributeShift v = 4 * (v.toNat / 32 % 32 / 2 % 2) + 2 * (v.toNat % 32 / 2 % 2) := by
  have hsplit : ((v >>> 4) &&& 0x0004#15) ||| (v &&& 0x0002#15) =
      0#12 ++ (v.extractLsb' 6 1 ++ (v.extractLsb' 1 1 ++ 0#1)) := by
    apply BitVec.eq_of_getLsbD_eq
    intro i hi
    rw [BitVec.getLsbD_append, BitVec.getLsbD_append, BitVec.getLsbD_append]
    interval_cases i <;> simp
  rw [attributeShift, hsplit, append_toNat, append_toNat, append_toNat, extractLsb'_toNat_div, extractLsb'_toNat_div]
  simp
  omega

/-- Two bits of a byte, moved to bits 3:2. -/
theorem twoBits_eq (b : Byte) (n : Nat) : ((b >>> n).setWidth 4 &&& 0x3#4) <<< 2 = b.extractLsb' n 2 ++ 0#2 := by
  apply BitVec.eq_of_getLsbD_eq
  intro i hi
  rw [BitVec.getLsbD_append]
  interval_cases i <;> simp

theorem patternAddress_eq (p : Ppu) :
    patternAddress p = (if p.ctrl.bgTable = true then 0x1000 else 0) + 16 * p.ntByte.toNat + p.v.toNat / 0x1000 := by
  have hlt := p.v.isLt
  rw [patternAddress, extractLsb'_toNat_div]
  omega

end Sys2Proof.Machine
end

section
/-! SUPPORT. When a picture step fetches, shifts, stores and scrolls (61_ppu.md R554 steps 3 to 6), and what no picture step
writes; the background's statement settled by it. -/

namespace Sys2Proof.Machine

open Sys2Proof.Claim

/-! ### The fetch of a dot -/

theorem fetchCycle_on {s : State} (hl : s.ppu.renderLine = true) (hd : s.ppu.fetchDot = true) :
    fetchCycle s = fetchByDot { s with ppu := { s.ppu with tileShift := s.ppu.tileShift <<< 4 } } := by
  rw [fetchCycle, hl, hd]
  rfl

theorem fetchCycle_off {s : State} (h : ¬ (s.ppu.renderLine = true ∧ s.ppu.fetchDot = true)) : fetchCycle s = s := by
  rw [fetchCycle, if_neg (by rwa [Bool.and_eq_true])]

theorem fetchByDot_tileShift (s : State) :
    (fetchByDot s).ppu.tileShift = if s.ppu.dot % 8 = 0 then s.ppu.storeTileData.tileShift else s.ppu.tileShift := by
  unfold fetchByDot
  split <;> simp_all [fetchNameTable, fetchAttribute, fetchPatternLow, fetchPatternHigh]

theorem fetchByDot_ntByte (s : State) :
    (fetchByDot s).ppu.ntByte = if s.ppu.dot % 8 = 1 then (fetchNameTable s).ppu.ntByte else s.ppu.ntByte := by
  unfold fetchByDot
  split <;> simp_all [fetchAttribute, fetchPatternLow, fetchPatternHigh, Ppu.storeTileData]

theorem fetchByDot_atBits (s : State) :
    (fetchByDot s).ppu.atBits = if s.ppu.dot % 8 = 3 then (fetchAttribute s).ppu.atBits else s.ppu.atBits := by
  unfold fetchByDot
  split <;> simp_all [fetchNameTable, fetchPatternLow, fetchPatternHigh, Ppu.storeTileData]

theorem fetchByDot_patLo (s : State) :
    (fetchByDot s).ppu.patLo = if s.ppu.dot % 8 = 5 then (fetchPatternLow s).ppu.patLo else s.ppu.patLo := by
  unfold fetchByDot
  split <;> simp_all [fetchNameTable, fetchAttribute, fetchPatternHigh, Ppu.storeTileData]

theorem fetchByDot_patHi (s : State) :
    (fetchByDot s).ppu.patHi = if s.ppu.dot % 8 = 7 then (fetchPatternHigh s).ppu.patHi else s.ppu.patHi := by
  unfold fetchByDot
  split <;> simp_all [fetchNameTable, fetchAttribute, fetchPatternLow, Ppu.storeTileData]

theorem Ppu.renderLine_iff (p : Ppu) : p.renderLine = true ↔ p.scanline ≤ 239 ∨ p.scanline = 261 := by
  simp [Ppu.renderLine, Ppu.visibleLine, Ppu.preLine]

theorem Ppu.fetchDot_iff (p : Ppu) :
    p.fetchDot = true ↔ (1 ≤ p.dot ∧ p.dot ≤ 256) ∨ (321 ≤ p.dot ∧ p.dot ≤ 336) := by
  simp [Ppu.fetchDot, Ppu.visibleDot, Ppu.prefetchDot]

/-! ### The scroll of a dot -/

theorem Ppu.scrollCycle_v (p : Ppu) :
    p.scrollCycle.v =
      let v0 := if p.scanline = 261 ∧ 280 ≤ p.dot ∧ p.dot ≤ 304 then copyY p.v p.t else p.v
      let v1 := if p.renderLine = true ∧ p.fetchDot = true ∧ p.dot % 8 = 0 then incrementX v0 else v0
      let v2 := if p.renderLine = true ∧ p.dot = 256 then incrementY v1 else v1
      if p.renderLine = true ∧ p.dot = 257 then copyX v2 p.t else v2 := by
  simp only [Ppu.scrollCycle, Ppu.preLine, Bool.and_eq_true, decide_eq_true_eq, and_assoc]

section
variable {p : Ppu}

/-- At dot 256 the address moves right and then down (R554, steps 4 and 5). -/
theorem Ppu.scroll_at256 (hl : p.renderLine = true) (hd : p.dot = 256) : p.scrollCycle.v = incrementY (incrementX p.v) := by
  have hfetch : p.fetchDot = true := p.fetchDot_iff.mpr (by omega)
  simp [Ppu.scrollCycle_v, hl, hd, hfetch]

theorem Ppu.scroll_at257 (hl : p.renderLine = true) (hd : p.dot = 257) : p.scrollCycle.v = copyX p.v p.t := by
  simp [Ppu.scrollCycle_v, hl, hd]

theorem Ppu.scroll_at280 (hl : p.scanline = 261) (hlo : 280 ≤ p.dot) (hhi : p.dot ≤ 304) : p.scrollCycle.v = copyY p.v p.t := by
  have hfetch : ¬ p.fetchDot = true := fun h => by have := p.fetchDot_iff.mp h; omega
  simp only [Ppu.scrollCycle_v]
  rw [if_neg (by omega), if_neg (by omega), if_neg (fun h => hfetch h.2.1), if_pos ⟨hl, hlo, hhi⟩]

theorem Ppu.scroll_at8 (hl : p.renderLine = true) (hf : p.fetchDot = true) (h8 : p.dot % 8 = 0) (hne : p.dot ≠ 256) :
    p.scrollCycle.v = incrementX p.v := by
  have hdot := p.fetchDot_iff.mp hf
  simp only [Ppu.scrollCycle_v]
  rw [if_neg (by omega), if_neg (by omega), if_pos ⟨hl, hf, h8⟩, if_neg (by omega)]

/-- On every other dot the address stays. -/
theorem Ppu.scroll_elsewhere (h8 : ¬ (p.renderLine = true ∧ p.fetchDot = true ∧ p.dot % 8 = 0))
    (hcopy : ¬ (p.renderLine = true ∧ (p.dot = 257 ∨ (p.scanline = 261 ∧ 280 ≤ p.dot ∧ p.dot ≤ 304)))) :
    p.scrollCycle.v = p.v := by
  have h257 : ¬ (p.renderLine = true ∧ p.dot = 257) := fun h => hcopy ⟨h.1, .inl h.2⟩
  have h280 : ¬ (p.scanline = 261 ∧ 280 ≤ p.dot ∧ p.dot ≤ 304) := fun h =>
    hcopy ⟨p.renderLine_iff.mpr (.inr h.1), .inr h⟩
  have h256 : ¬ (p.renderLine = true ∧ p.dot = 256) := fun h =>
    h8 ⟨h.1, p.fetchDot_iff.mpr (by omega), by omega⟩
  simp only [Ppu.scrollCycle_v]
  rw [if_neg h257, if_neg h256, if_neg h8, if_neg h280]

end

/-! ### The picture unit after a step -/

/-- Two picture units agree in every part that a fetch writes. -/
structure SameFetch (q f : Ppu) : Prop where
  ntByte : q.ntByte = f.ntByte
  atBits : q.atBits = f.atBits
  patLo : q.patLo = f.patLo
  patHi : q.patHi = f.patHi
  tileShift : q.tileShift = f.tileShift

/-- The vblank set and clear leave the fetch's parts and the scroll (R592, R593). -/
theorem vblankActions_sameFetch (s : State) :
    SameFetch (vblankActions s).ppu s.ppu ∧ (vblankActions s).ppu.v = s.ppu.v := by
  obtain ⟨vb, hit, ovf, front, back, prev, delay, h⟩ := vblankActions_frame s
  rw [h]
  exact ⟨⟨rfl, rfl, rfl, rfl, rfl⟩, rfl⟩

theorem stepStart_rendering (s : State) : (stepStart s).ppu.rendering = s.ppu.rendering := by
  rw [stepStart_ppu]
  rfl

/-- While rendering, a step fetches and scrolls as its actions do. -/
theorem ppuStep_on {s : State} (h : s.ppu.rendering = true) :
    SameFetch (ppuStep s).ppu (fetchCycle (stepStart s)).ppu ∧ (ppuStep s).ppu.v = (stepStart s).ppu.scrollCycle.v := by
  have hq := vblankActions_sameFetch (renderingActions (stepStart s))
  rw [← ppuStep_eq, renderingActions_eq ((stepStart_rendering s).trans h)] at hq
  obtain ⟨⟨hnt, hat, hlo, hhi, hshift⟩, hv⟩ := hq
  exact ⟨⟨hnt, hat, hlo, hhi, hshift⟩, hv⟩

/-- Otherwise it does neither. -/
theorem ppuStep_off {s : State} (h : ¬ s.ppu.rendering = true) :
    SameFetch (ppuStep s).ppu s.ppu ∧ (ppuStep s).ppu.v = s.ppu.v := by
  have hoff : (stepStart s).ppu.rendering = false := (stepStart_rendering s).trans (Bool.eq_false_iff.mpr h)
  have hq := vblankActions_sameFetch (renderingActions (stepStart s))
  rw [← ppuStep_eq, renderingActions_off hoff, stepStart_ppu] at hq
  obtain ⟨⟨hnt, hat, hlo, hhi, hshift⟩, hv⟩ := hq
  exact ⟨⟨hnt, hat, hlo, hhi, hshift⟩, hv⟩

/-- What no picture step writes: the registers, the latches and the memories of the picture unit. -/
structure Ppu.Kept (p q : Ppu) : Prop where
  t : q.t = p.t
  fineX : q.fineX = p.fineX
  w : q.w = p.w
  ctrl : q.ctrl = p.ctrl
  mask : q.mask = p.mask
  oam : q.oam = p.oam
  oamAddr : q.oamAddr = p.oamAddr
  nt : q.nt = p.nt
  pal : q.pal = p.pal
  readBuffer : q.readBuffer = p.readBuffer
  lastWrite : q.lastWrite = p.lastWrite

theorem ppuStep_kept (s : State) : s.ppu.Kept (ppuStep s).ppu := by
  obtain ⟨vb, hit, ovf, front, back, prev, delay, hvblank⟩ := vblankActions_frame (renderingActions (stepStart s))
  obtain ⟨d, f, sp, v, hactions⟩ := renderingActions_frame (stepStart s)
  rw [ppuStep_eq, hvblank]
  constructor <;> simp [hactions, stepStart_ppu]

/-- A picture step changes the picture unit and the interrupt latch alone. -/
theorem ppuStep_reaches (s : State) :
    ppuStep s = { s with ppu := (ppuStep s).ppu, cpu := { s.cpu with latch := (ppuStep s).cpu.latch } } := by
  obtain ⟨vb, hit, ovf, front, back, prev, delay, hvblank⟩ := vblankActions_frame (renderingActions (stepStart s))
  obtain ⟨d, f, sp, v, hactions⟩ := renderingActions_frame (stepStart s)
  rw [ppuStep_eq, hvblank, hactions, stepStart_eq]

/-! ### Fetches -/

/-- The state that a fetch dot's fetch runs in: the shift register moved four bits (R554, step 3). -/
def shiftedStart (s : State) : State :=
  { stepStart s with ppu := { (stepStart s).ppu with tileShift := (stepStart s).ppu.tileShift <<< 4 } }

theorem shiftedStart_ppu (s : State) :
    (shiftedStart s).ppu = { s.ppu.started with tileShift := s.ppu.tileShift <<< 4 } := by
  rw [shiftedStart, stepStart_ppu]
  rfl

/-- Picture space is read by a fetch as it was before the step. -/
theorem ppuRead_shiftedStart (s : State) (a : Nat) : ppuRead (shiftedStart s) a = ppuRead s a := by
  have hcart : (shiftedStart s).cart = s.cart := by rw [shiftedStart, stepStart_eq]
  exact ppuRead_congr hcart (by rw [shiftedStart_ppu]; rfl) (by rw [shiftedStart_ppu]; rfl) a

/-- The step moves to a fetch dot of a render line with `dot mod 8 = k`, while rendering. -/
def Fetches (s : State) (k : Nat) : Prop :=
  (s.ppu.rendering = true ∧ ((ppuStep s).ppu.scanline ≤ 239 ∨ (ppuStep s).ppu.scanline = 261)) ∧
    ((1 ≤ (ppuStep s).ppu.dot ∧ (ppuStep s).ppu.dot ≤ 256) ∨ (321 ≤ (ppuStep s).ppu.dot ∧ (ppuStep s).ppu.dot ≤ 336)) ∧
    (ppuStep s).ppu.dot % 8 = k

theorem fetches_iff (s : State) (k : Nat) :
    Fetches s k ↔ s.ppu.rendering = true ∧ (stepStart s).ppu.renderLine = true ∧ (stepStart s).ppu.fetchDot = true ∧
      (stepStart s).ppu.dot % 8 = k := by
  obtain ⟨hdot, hline⟩ := ppuStep_place s
  rw [Fetches, hdot, hline, Ppu.renderLine_iff, Ppu.fetchDot_iff, and_assoc]

/-- A step fetches by its dot, or leaves every part of the fetch. -/
theorem ppuStep_fetch_cases (s : State) :
    (Fetches s ((shiftedStart s).ppu.dot % 8) ∧ SameFetch (ppuStep s).ppu (fetchByDot (shiftedStart s)).ppu) ∨
      ((∀ k, ¬ Fetches s k) ∧ SameFetch (ppuStep s).ppu s.ppu) := by
  by_cases hr : s.ppu.rendering = true
  · have hstep := (ppuStep_on hr).1
    by_cases hf : (stepStart s).ppu.renderLine = true ∧ (stepStart s).ppu.fetchDot = true
    · rw [fetchCycle_on hf.1 hf.2] at hstep
      exact .inl ⟨(fetches_iff s _).mpr ⟨hr, hf.1, hf.2, rfl⟩, hstep⟩
    · rw [fetchCycle_off hf, stepStart_ppu] at hstep
      obtain ⟨hnt, hat, hlo, hhi, hshift⟩ := hstep
      refine .inr ⟨fun k hk => ?_, ⟨hnt, hat, hlo, hhi, hshift⟩⟩
      obtain ⟨-, hl, hd, -⟩ := (fetches_iff s k).mp hk
      exact hf ⟨hl, hd⟩
  · exact .inr ⟨fun k hk => hr hk.1.1, (ppuStep_off hr).1⟩

theorem Fetches.dot {s : State} {k : Nat} (h : Fetches s k) : (shiftedStart s).ppu.dot % 8 = k := by
  obtain ⟨-, -, -, hdot⟩ := (fetches_iff s k).mp h
  exact hdot

/-- A part that only the fetch of `dot mod 8 = k` writes, with `x`. -/
theorem ppuStep_fetched {α : Type} {part : Ppu → α} {k : Nat} {x : α} (s : State)
    (hsame : ∀ q f, SameFetch q f → part q = part f)
    (hfetch : part (fetchByDot (shiftedStart s)).ppu =
      if (shiftedStart s).ppu.dot % 8 = k then x else part (shiftedStart s).ppu)
    (hpart : part (shiftedStart s).ppu = part s.ppu) :
    (Fetches s k → part (ppuStep s).ppu = x) ∧ (¬ Fetches s k → part (ppuStep s).ppu = part s.ppu) := by
  rcases ppuStep_fetch_cases s with ⟨hdot, h⟩ | ⟨hno, h⟩
  · rw [hsame _ _ h, hfetch, hpart]
    refine ⟨fun hk => if_pos hk.dot, fun hk => if_neg ?_⟩
    rintro rfl
    exact hk hdot
  · exact ⟨fun hk => absurd hk (hno k), fun _ => hsame _ _ h⟩

theorem ppuStep_ntByte (s : State) :
    (Fetches s 1 → (ppuStep s).ppu.ntByte = ppuRead s (0x2000 + s.ppu.v.toNat % 0x1000)) ∧
      (¬ Fetches s 1 → (ppuStep s).ppu.ntByte = s.ppu.ntByte) := by
  refine ppuStep_fetched (part := Ppu.ntByte) s (fun q f h => h.ntByte) ?_ (by rw [shiftedStart_ppu]; rfl)
  have hv : (shiftedStart s).ppu.v = s.ppu.v := by rw [shiftedStart_ppu]; rfl
  rw [fetchByDot_ntByte, fetchNameTable, ppuRead_shiftedStart, hv, nameTableAddress_toNat]

theorem ppuStep_atBits (s : State) :
    let v := s.ppu.v.toNat
    let atByte := ppuRead s (0x23C0 + 0x400 * (v / 0x400 % 4) + 8 * (v / 32 % 32 / 4) + v % 32 / 4)
    (Fetches s 3 → (ppuStep s).ppu.atBits =
        atByte.extractLsb' (4 * (v / 32 % 32 / 2 % 2) + 2 * (v % 32 / 2 % 2)) 2 ++ 0#2) ∧
      (¬ Fetches s 3 → (ppuStep s).ppu.atBits = s.ppu.atBits) := by
  refine ppuStep_fetched (part := Ppu.atBits) s (fun q f h => h.atBits) ?_ (by rw [shiftedStart_ppu]; rfl)
  have hv : (shiftedStart s).ppu.v = s.ppu.v := by rw [shiftedStart_ppu]; rfl
  rw [fetchByDot_atBits, fetchAttribute]
  dsimp only
  rw [ppuRead_shiftedStart, hv, attributeAddress_toNat, twoBits_eq, attributeShift_eq]

theorem patternAddress_shiftedStart (s : State) :
    patternAddress (shiftedStart s).ppu =
      (if s.ppu.ctrl.bgTable = true then 0x1000 else 0) + 16 * s.ppu.ntByte.toNat + s.ppu.v.toNat / 0x1000 := by
  rw [shiftedStart_ppu, patternAddress_eq]
  rfl

theorem ppuStep_patLo (s : State) :
    (Fetches s 5 → (ppuStep s).ppu.patLo = ppuRead s
        ((if s.ppu.ctrl.bgTable = true then 0x1000 else 0) + 16 * s.ppu.ntByte.toNat + s.ppu.v.toNat / 0x1000)) ∧
      (¬ Fetches s 5 → (ppuStep s).ppu.patLo = s.ppu.patLo) := by
  refine ppuStep_fetched (part := Ppu.patLo) s (fun q f h => h.patLo) ?_ (by rw [shiftedStart_ppu]; rfl)
  rw [fetchByDot_patLo, fetchPatternLow, ppuRead_shiftedStart, patternAddress_shiftedStart]

theorem ppuStep_patHi (s : State) :
    (Fetches s 7 → (ppuStep s).ppu.patHi = ppuRead s
        ((if s.ppu.ctrl.bgTable = true then 0x1000 else 0) + 16 * s.ppu.ntByte.toNat + s.ppu.v.toNat / 0x1000 + 8)) ∧
      (¬ Fetches s 7 → (ppuStep s).ppu.patHi = s.ppu.patHi) := by
  refine ppuStep_fetched (part := Ppu.patHi) s (fun q f h => h.patHi) ?_ (by rw [shiftedStart_ppu]; rfl)
  rw [fetchByDot_patHi, fetchPatternHigh, ppuRead_shiftedStart, patternAddress_shiftedStart]

/-- The shift register moves four bits on every fetch dot, and then takes the tile row where `dot mod 8 = 0`. -/
theorem ppuStep_tileShift (s : State) :
    (Fetches s 0 → (ppuStep s).ppu.tileShift =
        (Ppu.storeTileData { s.ppu with tileShift := s.ppu.tileShift <<< 4 }).tileShift) ∧
      (∀ k, k ≠ 0 → Fetches s k → (ppuStep s).ppu.tileShift = s.ppu.tileShift <<< 4) ∧
      ((∀ k, ¬ Fetches s k) → (ppuStep s).ppu.tileShift = s.ppu.tileShift) := by
  rcases ppuStep_fetch_cases s with ⟨hdot, h⟩ | ⟨hno, h⟩
  · rw [h.tileShift, fetchByDot_tileShift]
    refine ⟨fun h0 => ?_, fun k hk hfetch => ?_, fun hno => absurd hdot (hno _)⟩
    · rw [if_pos h0.dot, shiftedStart_ppu]
      rfl
    · rw [if_neg (hfetch.dot ▸ hk), shiftedStart_ppu]
  · exact ⟨fun h0 => absurd h0 (hno 0), fun k _ hfetch => absurd hfetch (hno k), fun _ => h.tileShift⟩

/-! ### The scroll -/

/-- The scroll address after a step that moves to a render line, while rendering. -/
theorem ppuStep_v {s : State} (h : s.ppu.rendering = true) : (ppuStep s).ppu.v = s.ppu.started.scrollCycle.v := by
  rw [(ppuStep_on h).2, stepStart_ppu]

/-- The dot and the line a step moves to, as the actions see them. -/
theorem ppuStep_started (s : State) :
    (ppuStep s).ppu.dot = s.ppu.started.dot ∧ (ppuStep s).ppu.scanline = s.ppu.started.scanline := by
  rw [← stepStart_ppu]
  exact ppuStep_place s

/-- Settles O46: the fields and bits of the scroll and of a packed row; each part of a fetch by its dot; the scroll by its dot;
and what no step writes. -/
theorem backgroundFetchesAndScroll : Obligations.BackgroundFetchesAndScroll := by
  unfold Obligations.BackgroundFetchesAndScroll
  refine ⟨⟨⟨incrementX_fields, incrementY_fields, fun v t k => copyX_getLsbD v t, fun v t k => copyY_getLsbD v t⟩,
    fun p i hi => ⟨storeTileData_pixel p hi, storeTileData_high p⟩⟩, ?_⟩
  intro s t q onLine fetch v coarseX coarseY atByte row shifted
  obtain ⟨hdot, hline⟩ := ppuStep_started s
  have honLine (h : onLine) : s.ppu.rendering = true ∧ s.ppu.started.renderLine = true :=
    ⟨h.1, (Ppu.renderLine_iff _).mpr (hline ▸ h.2)⟩
  have hkept := ppuStep_kept s
  refine ⟨ppuStep_tileShift s, ppuStep_ntByte s, ppuStep_atBits s, ppuStep_patLo s, ppuStep_patHi s,
    ⟨fun hl hd => ?at256, fun hl hd => ?at257, fun hl h261 hlo hhi => ?at280, fun hf hd => ?at8, fun h8 hcopy => ?elsewhere⟩,
    ⟨hkept.t, hkept.fineX, hkept.w, hkept.ctrl, hkept.mask, hkept.oam, hkept.oamAddr, hkept.nt, hkept.pal, hkept.readBuffer,
      hkept.lastWrite⟩, ppuStep_reaches s⟩
  case at256 => exact (ppuStep_v hl.1).trans (Ppu.scroll_at256 (honLine hl).2 (hdot ▸ hd))
  case at257 => exact (ppuStep_v hl.1).trans (Ppu.scroll_at257 (honLine hl).2 (hdot ▸ hd))
  case at280 => exact (ppuStep_v hl.1).trans (Ppu.scroll_at280 (hline ▸ h261) (hdot ▸ hlo) (hdot ▸ hhi))
  case at8 =>
    obtain ⟨hl, hrange, hmod⟩ := hf
    have hfetch : s.ppu.started.fetchDot = true := (Ppu.fetchDot_iff _).mpr (hdot ▸ hrange)
    exact (ppuStep_v hl.1).trans (Ppu.scroll_at8 (honLine hl).2 hfetch (hdot ▸ hmod) (hdot ▸ hd))
  case elsewhere =>
    by_cases hr : s.ppu.rendering = true
    · refine (ppuStep_v hr).trans (Ppu.scroll_elsewhere (fun h => h8 ?_) fun h => hcopy ?_)
      · have hl : onLine := ⟨hr, hline ▸ (Ppu.renderLine_iff _).mp h.1⟩
        have hrange := (Ppu.fetchDot_iff _).mp h.2.1
        exact ⟨hl, hdot ▸ hrange, hdot ▸ h.2.2⟩
      · have hl : onLine := ⟨hr, hline ▸ (Ppu.renderLine_iff _).mp h.1⟩
        have hplace := h.2
        rw [← hdot, ← hline] at hplace
        exact ⟨hl, hplace⟩
    · exact (ppuStep_off hr).2

end Sys2Proof.Machine
end

section
/-! SUPPORT. Sprites: the evaluation as a list of buffers pushed in OAM order, and the pattern rows (61_ppu.md R580, R581); the
pixel of a dot: its combination, the sprite chosen, and what drawing it changes (R582, R585 to R587). The statements settled by
them. -/

namespace Sys2Proof.Machine

open Sys2Proof.Claim

/-! ### Combination -/

theorem opaquePixel_iff (c : BitVec 4) : opaquePixel c = true ↔ c.toNat % 4 ≠ 0 := by
  revert c
  decide

theorem combinePixel_none (px : Nat) (bg : BitVec 4) :
    combinePixel px bg none = ⟨if bg.toNat % 4 = 0 then 0 else bg.setWidth 5, false⟩ := by
  by_cases h : bg.toNat % 4 = 0
  · have hbg : ¬ opaquePixel bg = true := fun ho => (opaquePixel_iff bg).mp ho h
    simp [combinePixel, h, hbg]
  · have hbg : opaquePixel bg = true := (opaquePixel_iff bg).mpr h
    simp [combinePixel, h, hbg]

theorem combinePixel_transparent (px : Nat) {bg : BitVec 4} (sp : BitVec 4) (sl : SpriteSlot) (h : bg.toNat % 4 = 0) :
    combinePixel px bg (some (sl, sp)) = ⟨0x10#5 ||| sp.setWidth 5, false⟩ := by
  have hbg : ¬ opaquePixel bg = true := fun ho => (opaquePixel_iff bg).mp ho h
  simp [combinePixel, hbg, BitVec.or_comm]

theorem combinePixel_opaque (px : Nat) {bg : BitVec 4} (sp : BitVec 4) (sl : SpriteSlot) (h : bg.toNat % 4 ≠ 0) :
    combinePixel px bg (some (sl, sp)) =
      ⟨if sl.priority = false then 0x10#5 ||| sp.setWidth 5 else bg.setWidth 5, decide (sl.index = 0 ∧ px < 255)⟩ := by
  have hbg : opaquePixel bg = true := (opaquePixel_iff bg).mpr h
  cases hp : sl.priority <;> simp [combinePixel, hbg, hp, BitVec.or_comm]

/-! ### The sprite of a column -/

/-- The pixel of a buffer at a column its eight columns hold (R582). -/
theorem SpriteSlot.pixelAt_inside {sl : SpriteSlot} {px : Nat} (h : sl.x.toNat ≤ px ∧ px ≤ sl.x.toNat + 7) :
    sl.pixelAt px = some (sl.pattern.extractLsb' (28 - 4 * (px - sl.x.toNat)) 4) := by
  have hshift : 4 * (7 - (px - sl.x.toNat)) = 28 - 4 * (px - sl.x.toNat) := by omega
  rw [SpriteSlot.pixelAt, if_pos h, BitVec.setWidth_ushiftRight_eq_extractLsb, hshift]

theorem SpriteSlot.pixelAt_outside {sl : SpriteSlot} {px : Nat} (h : ¬ (sl.x.toNat ≤ px ∧ px ≤ sl.x.toNat + 7)) :
    sl.pixelAt px = none := if_neg h

theorem firstOpaque_cons (px n : Nat) (sl : SpriteSlot) (rest : List SpriteSlot) :
    firstOpaque px (n + 1) (sl :: rest) =
      if sl.x.toNat ≤ px ∧ px ≤ sl.x.toNat + 7 ∧ (sl.pattern.extractLsb' (28 - 4 * (px - sl.x.toNat)) 4).toNat % 4 ≠ 0 then
        some (sl, sl.pattern.extractLsb' (28 - 4 * (px - sl.x.toNat)) 4)
      else firstOpaque px n rest := by
  by_cases h : sl.x.toNat ≤ px ∧ px ≤ sl.x.toNat + 7
  · simp only [firstOpaque, SpriteSlot.pixelAt_inside h, opaquePixel_iff, h.1, h.2, true_and]
  · rw [if_neg fun hc => h ⟨hc.1, hc.2.1⟩]
    simp only [firstOpaque, SpriteSlot.pixelAt_outside h]

theorem firstOpaque_zero (px : Nat) (l : List SpriteSlot) : firstOpaque px 0 l = none := by cases l <;> rfl

theorem firstOpaque_nil (px n : Nat) : firstOpaque px n [] = none := by cases n <;> rfl

/-- Settles O48: the combination by whether the background is opaque; the chosen sprite by the first buffer. -/
theorem pixelsCombine : Obligations.PixelsCombine := by
  unfold Obligations.PixelsCombine
  exact fun px bg sp sl => ⟨combinePixel_none px bg, fun _ => combinePixel_transparent px sp sl,
    fun _ => combinePixel_opaque px sp sl, fun n rest => firstOpaque_cons px n sl rest, firstOpaque_zero px,
    firstOpaque_nil px⟩

/-! ### Drawing -/

/-- The background pixel of a column after the masks, as the statement says it (R585, R586). -/
theorem Ppu.maskedBackground_eq (p : Ppu) (px : Nat) :
    (if px < 8 ∧ !p.mask.showLeftBg then 0 else p.backgroundPixel) =
      if p.mask.showBg = false ∨ (px < 8 ∧ p.mask.showLeftBg = false) then 0
      else p.tileShift.extractLsb' (60 - 4 * p.fineX.toNat) 4 := by
  have hfine := p.fineX.isLt
  have hshift : 32 + 4 * (7 - p.fineX.toNat) = 60 - 4 * p.fineX.toNat := by omega
  have hpixel : p.backgroundPixel = if p.mask.showBg = true then p.tileShift.extractLsb' (60 - 4 * p.fineX.toNat) 4 else 0 := by
    rw [Ppu.backgroundPixel, BitVec.setWidth_ushiftRight_eq_extractLsb, hshift]
  rw [hpixel]
  cases p.mask.showBg <;> cases p.mask.showLeftBg <;> simp

/-- The sprite pixel of a column after the masks. -/
theorem Ppu.maskedSprite_eq (p : Ppu) (px : Nat) :
    (if px < 8 ∧ !p.mask.showLeftSprites then none else p.spritePixel px) =
      if p.mask.showSprites = false ∨ (px < 8 ∧ p.mask.showLeftSprites = false) then none
      else firstOpaque px p.spriteCount p.sprites.toList := by
  unfold Ppu.spritePixel
  cases p.mask.showSprites <;> cases p.mask.showLeftSprites <;> simp

theorem renderVisible_on {s : State} (hl : s.ppu.scanline ≤ 239) (h1 : 1 ≤ s.ppu.dot) (h256 : s.ppu.dot ≤ 256) :
    renderVisible s = { s with ppu := s.ppu.renderPixel } := by
  refine if_pos ?_
  simp [Ppu.visibleLine, Ppu.visibleDot, hl, h1, h256]

theorem renderVisible_off {s : State} (h : ¬ (s.ppu.scanline ≤ 239 ∧ 1 ≤ s.ppu.dot ∧ s.ppu.dot ≤ 256)) :
    renderVisible s = s := by
  refine if_neg ?_
  simpa [Ppu.visibleLine, Ppu.visibleDot] using h

/-- Away from the vblank set, the back buffer is what the actions leave. -/
theorem ppuStep_back {s : State} (h241 : ¬ ((ppuStep s).ppu.scanline = 241 ∧ (ppuStep s).ppu.dot = 1)) :
    (ppuStep s).ppu.back = (renderingActions (stepStart s)).ppu.back := by
  by_cases h261 : (ppuStep s).ppu.scanline = 261 ∧ (ppuStep s).ppu.dot = 1
  · rw [ppuStep_at261 h261.1 h261.2]
    rfl
  · rw [ppuStep_elsewhere h241 h261]

/-- Where a step moves to a visible dot, while rendering. -/
def Draws (s : State) : Prop :=
  s.ppu.rendering = true ∧ (ppuStep s).ppu.scanline ≤ 239 ∧ 1 ≤ (ppuStep s).ppu.dot ∧ (ppuStep s).ppu.dot ≤ 256

/-- A step that draws leaves what `RenderPixel()` leaves. -/
theorem renderingActions_draws {s : State} (h : Draws s) :
    (renderingActions (stepStart s)).ppu.back = s.ppu.started.renderPixel.back ∧
      (renderingActions (stepStart s)).ppu.sprite0Hit = s.ppu.started.renderPixel.sprite0Hit := by
  obtain ⟨hr, hl, h1, h256⟩ := h
  obtain ⟨hdot, hline⟩ := ppuStep_place s
  rw [renderingActions_eq ((stepStart_rendering s).trans hr),
    renderVisible_on (hline ▸ hl) (hdot ▸ h1) (hdot ▸ h256), stepStart_ppu]
  exact ⟨Ppu.acted_back .., Ppu.acted_sprite0Hit ..⟩

/-- A step that does not draw leaves the back buffer. -/
theorem renderingActions_draws_not {s : State} (h : ¬ Draws s) :
    (renderingActions (stepStart s)).ppu.back = s.ppu.back := by
  obtain ⟨hdot, hline⟩ := ppuStep_place s
  by_cases hr : s.ppu.rendering = true
  · have hoff : renderVisible (stepStart s) = stepStart s := renderVisible_off fun hc =>
      h ⟨hr, hline ▸ hc.1, hdot ▸ hc.2.1, hdot ▸ hc.2.2⟩
    rw [renderingActions_eq ((stepStart_rendering s).trans hr), hoff]
    simp [stepStart_ppu]
  · rw [renderingActions_off ((stepStart_rendering s).trans (Bool.eq_false_iff.mpr hr)), stepStart_ppu]
    rfl

/-- Settles O49: the pixel drawn is the masked combination of its column, written at its index. -/
theorem renderingDrawsOnePixel : Obligations.RenderingDrawsOnePixel := by
  unfold Obligations.RenderingDrawsOnePixel
  intro s k hwf p px here bg r h241
  obtain ⟨hdot, hline⟩ := ppuStep_started s
  have hpx : px = s.ppu.started.dot - 1 := congrArg (· - 1) hdot
  have hpixel : s.ppu.started.pixel (s.ppu.started.dot - 1) = r := by
    rw [← hpx, Ppu.pixel, Ppu.maskedBackground_eq, Ppu.maskedSprite_eq]
    rfl
  have hdrawn (hd : here) : p.back = Sparse.write s.ppu.back (256 * p.scanline + px) (s.ppu.outputColor r.color) := by
    rw [ppuStep_back h241, (renderingActions_draws hd).1, Ppu.renderPixel, hpixel, ← hline, ← hpx]
    rfl
  refine ⟨fun hd => ?hit, fun ⟨hd, hk⟩ => ?drawn, fun hother => ?other⟩
  case hit =>
    have hl : (ppuStep s).ppu.scanline ≤ 239 := hd.2.1
    show (ppuStep s).ppu.sprite0Hit = _
    rw [ppuStep_elsewhere h241 (by omega), (renderingActions_draws hd).2, Ppu.renderPixel, hpixel]
    rfl
  case drawn =>
    rw [hdrawn hd, hk, Sparse.read_write_same hwf]
    rfl
  case other =>
    by_cases hd : here
    · rw [hdrawn hd]
      exact Sparse.read_write_other _ _ fun hk => hother ⟨hd, hk⟩
    · rw [ppuStep_back h241, renderingActions_draws_not hd]

/-! ### Evaluation -/

/-- One more sprite met: counted, and kept while there is room. -/
def Evaluation.push (e : Evaluation) (sl : SpriteSlot) : Evaluation where
  count := e.count + 1
  slots := if e.count < 8 then e.slots.setIfInBounds e.count sl else e.slots

theorem pushes_count (l : List SpriteSlot) (e : Evaluation) : (l.foldl Evaluation.push e).count = e.count + l.length := by
  induction l generalizing e with
  | nil => rfl
  | cons sl rest ih => rw [List.foldl_cons, ih, Evaluation.push, List.length_cons, Nat.add_assoc, Nat.add_comm 1]

theorem push_slot_other {e : Evaluation} (sl : SpriteSlot) {k : Nat} (h : k ≠ e.count) :
    (e.push sl).slots[k]? = e.slots[k]? := by
  unfold Evaluation.push
  dsimp only
  split
  · rw [Vector.getElem?_setIfInBounds, if_neg (Ne.symm h)]
  · rfl

theorem push_slot_here {e : Evaluation} (sl : SpriteSlot) (h : e.count < 8) : (e.push sl).slots[e.count]? = some sl := by
  unfold Evaluation.push
  dsimp only
  rw [if_pos h, Vector.getElem?_setIfInBounds, if_pos rfl, if_pos h]

/-- Later sprites leave the buffers of earlier ones. -/
theorem pushes_slot_before (l : List SpriteSlot) {e : Evaluation} {k : Nat} (h : k < e.count) :
    (l.foldl Evaluation.push e).slots[k]? = e.slots[k]? := by
  induction l generalizing e with
  | nil => rfl
  | cons sl rest ih =>
    have hk : k < (e.push sl).count := Nat.lt_succ_of_lt h
    rw [List.foldl_cons, ih hk, push_slot_other sl (Nat.ne_of_lt h)]

/-- The sprites met are in the buffers, in order, while there is room. -/
theorem pushes_slot (l : List SpriteSlot) {e : Evaluation} {j : Nat} {x : SpriteSlot} (hx : l[j]? = some x)
    (h : e.count + j < 8) : (l.foldl Evaluation.push e).slots[e.count + j]? = some x := by
  induction l generalizing e j with
  | nil => cases hx
  | cons sl rest ih =>
    rw [List.foldl_cons]
    cases j with
    | zero =>
      cases hx
      rw [Nat.add_zero, pushes_slot_before rest (Nat.lt_succ_self _), push_slot_here _ h]
    | succ j =>
      have hcount : e.count + (j + 1) = (e.push sl).count + j := by
        show _ = e.count + 1 + j
        omega
      rw [hcount]
      exact ih hx (by omega)

/-- The loop pushes the buffers of the entries whose rows the next line crosses (R580). -/
theorem evaluation_eq {s : State} {hit : Nat → Bool} {row : Nat → Nat}
    (h : ∀ i, s.ppu.spriteRow i = if hit i = true then some (row i) else none) (l : List Nat) (e : Evaluation) :
    l.foldl (evaluateEntry s) e = ((l.filter hit).map fun i => spriteSlot s i (row i)).foldl Evaluation.push e := by
  induction l generalizing e with
  | nil => rfl
  | cons i rest ih =>
    rw [List.foldl_cons, ih, evaluateEntry, h]
    by_cases hi : hit i = true
    · rw [if_pos hi, List.filter_cons_of_pos hi]
      rfl
    · rw [if_neg hi, List.filter_cons_of_neg hi]

/-- On the lines before a visible one, the row of a crossing sprite is the line less its top (R580). -/
theorem Ppu.spriteRow_visible {p : Ppu} (h : p.scanline ≤ 238) (i : Nat) :
    p.spriteRow i =
      if decide ((p.oamByte i 0).toNat ≤ p.scanline ∧ p.scanline < (p.oamByte i 0).toNat + p.spriteHeight) = true then
        some (p.scanline - (p.oamByte i 0).toNat)
      else none := by
  have hnext : (p.scanline + 1) % 262 = p.scanline + 1 := Nat.mod_eq_of_lt (by omega)
  have hheight : 0 < p.spriteHeight := by unfold Ppu.spriteHeight; split <;> omega
  rw [Ppu.spriteRow, hnext]
  by_cases hc : (p.oamByte i 0).toNat ≤ p.scanline ∧ p.scanline < (p.oamByte i 0).toNat + p.spriteHeight
  · rw [if_pos (decide_eq_true hc)]
    exact if_pos ⟨by omega, by omega⟩
  · rw [decide_eq_false hc]
    exact if_neg fun hrow => hc ⟨by omega, by omega⟩

/-- Before line 0 no row is crossed (log 12). -/
theorem Ppu.spriteRow_preRender {p : Ppu} (h : p.scanline = 261) (i : Nat) : p.spriteRow i = none := by
  rw [Ppu.spriteRow, h]
  exact if_neg fun hrow => by omega

/-! ### Pattern rows -/

/-- Palette bits joined by a bit of each plane. -/
theorem pixelBits_eq (x : BitVec 2) (lo hi : Bool) :
    (x ++ 0#2) ||| (BitVec.ofBool lo).setWidth 4 ||| ((BitVec.ofBool hi).setWidth 4 <<< 1) =
      x ++ (BitVec.ofBool hi ++ BitVec.ofBool lo) := by
  revert x lo hi
  decide

/-- Pixel `i` of a sprite's row, from the left (R581). -/
theorem spritePattern_pixel (s : State) (tile attr : Byte) (row : Nat) {i : Nat} (h : i < 8) :
    let bit := if attr.getLsbD 6 = true then i else 7 - i
    (spritePattern s tile attr row).extractLsb' (28 - 4 * i) 4 =
      attr.extractLsb' 0 2 ++ (BitVec.ofBool ((ppuRead s (spriteAddress s.ppu tile attr row + 8)).getLsbD bit) ++
        BitVec.ofBool ((ppuRead s (spriteAddress s.ppu tile attr row)).getLsbD bit)) := by
  have hplace : 28 - 4 * i = 4 * (7 - i) := by omega
  have hbase : (attr.setWidth 4 &&& 0x3#4) <<< 2 = attr.extractLsb' 0 2 ++ 0#2 := twoBits_eq attr 0
  have hnibble := packPixels_nibble ((attr.setWidth 4 &&& 0x3#4) <<< 2) (ppuRead s (spriteAddress s.ppu tile attr row))
    (ppuRead s (spriteAddress s.ppu tile attr row + 8)) (fun j => if attr.getLsbD 6 then j else 7 - j) h
  rw [hplace]
  refine hnibble.trans ?_
  rw [hbase, pixelBits_eq]

theorem spriteAddress_8 {p : Ppu} (h : p.ctrl.spriteSize16 = false) (tile attr : Byte) (row : Nat) :
    spriteAddress p tile attr row =
      (if p.ctrl.spriteTable = true then 0x1000 else 0) + 16 * tile.toNat + (if attr.getLsbD 7 = true then 7 - row else row) := by
  rw [spriteAddress, h]
  rfl

/-- The table and the upper tile of an 8x16 sprite, from its tile byte (R581). -/
theorem tile16_eq (tile : Byte) :
    (if tile.getLsbD 0 = true then 0x1000 else 0) + 16 * (tile &&& 0xFE#8).toNat =
      0x1000 * (tile.toNat % 2) + 16 * (tile.toNat / 2 * 2) := by
  revert tile
  decide

theorem spriteAddress_16 {p : Ppu} (h : p.ctrl.spriteSize16 = true) (tile attr : Byte) {row : Nat} (hrow : row < 16) :
    let r := if attr.getLsbD 7 = true then 15 - row else row
    spriteAddress p tile attr row = 0x1000 * (tile.toNat % 2) + 16 * (tile.toNat / 2 * 2 + r / 8) + r % 8 := by
  intro r
  have hr : r < 16 := by
    show (if attr.getLsbD 7 = true then 15 - row else row) < 16
    split <;> omega
  have haddr : spriteAddress p tile attr row =
      if r > 7 then (if tile.getLsbD 0 = true then 0x1000 else 0) + 16 * (tile &&& 0xFE#8).toNat + 16 + (r - 8)
      else (if tile.getLsbD 0 = true then 0x1000 else 0) + 16 * (tile &&& 0xFE#8).toNat + r := by
    rw [spriteAddress, h]
    rfl
  rw [haddr, tile16_eq]
  split <;> omega

/-! ### When a step evaluates -/

/-- Two picture units agree in every part that the evaluation writes. -/
structure SameSprites (q e : Ppu) : Prop where
  sprites : q.sprites = e.sprites
  spriteCount : q.spriteCount = e.spriteCount
  spriteOverflow : q.spriteOverflow = e.spriteOverflow

/-- A dot other than 0 is moved to inside its line (R551). -/
theorem Ppu.started_line {p : Ppu} (h : p.started.dot ≠ 0) : p.started.scanline = p.scanline := by
  rw [Ppu.started_dot] at h
  rw [Ppu.started_scanline]
  by_cases hskip : p.AtSkip
  · rw [Ppu.advance_of_skip hskip] at h
    exact absurd rfl h
  by_cases hdot : p.dot < 340
  · rw [Ppu.advance_within_line hskip hdot]
  by_cases hline : p.scanline < 261
  · rw [Ppu.advance_at_line_end (by omega) hline] at h
    exact absurd rfl h
  · rw [Ppu.advance_at_frame_end (by omega) (by omega)] at h
    exact absurd rfl h

/-- The evaluation in a step is that of the state before it, on the same line. -/
theorem evaluateSprites_stepStart {s : State} (h : s.ppu.started.scanline = s.ppu.scanline) :
    SameSprites (evaluateSprites (stepStart s)).ppu (evaluateSprites s).ppu := by
  have heval : evaluation (stepStart s) = evaluation s :=
    evaluation_congr (by rw [stepStart_eq]) (by rw [stepStart_ppu]; rfl) (by rw [stepStart_ppu]; rfl)
      (by rw [stepStart_ppu]; rfl) (by rw [stepStart_ppu]; exact h) (by rw [stepStart_ppu]; rfl)
      (by rw [stepStart_ppu]; rfl)
  have hoverflow : (stepStart s).ppu.spriteOverflow = s.ppu.spriteOverflow := by rw [stepStart_ppu]; rfl
  unfold evaluateSprites
  rw [heval, hoverflow]
  exact ⟨rfl, rfl, rfl⟩

theorem spriteCycle_evaluates {s : State} (hd : s.ppu.dot = 257) (hn : (s.ppu.scanline + 1) % 262 ≤ 239) :
    spriteCycle s = evaluateSprites s := by
  rw [spriteCycle, if_pos hd, if_pos hn]

theorem spriteCycle_clears {s : State} (hd : s.ppu.dot = 257) (hn : 239 < (s.ppu.scanline + 1) % 262) :
    spriteCycle s = { s with ppu := { s.ppu with spriteCount := 0 } } := by
  rw [spriteCycle, if_pos hd, if_neg (by omega)]

theorem spriteCycle_off {s : State} (hd : s.ppu.dot ≠ 257) : spriteCycle s = s := if_neg hd

theorem renderingActions_sprites {s : State} (h : s.ppu.rendering = true) :
    SameSprites (renderingActions s).ppu (spriteCycle s).ppu := by
  rw [renderingActions_eq h]
  exact ⟨Ppu.acted_sprites .., Ppu.acted_spriteCount .., Ppu.acted_spriteOverflow ..⟩

/-- Away from a rendered dot 257 the actions leave the slots, the count and the flag. -/
theorem renderingActions_sprites_off {s : State} (h : ¬ (s.ppu.rendering = true ∧ (ppuStep s).ppu.dot = 257)) :
    SameSprites (renderingActions (stepStart s)).ppu s.ppu := by
  have hkept : SameSprites (stepStart s).ppu s.ppu := by
    rw [stepStart_ppu]
    exact ⟨rfl, rfl, rfl⟩
  by_cases hr : s.ppu.rendering = true
  · have hdot : (stepStart s).ppu.dot ≠ 257 := fun hd => h ⟨hr, (ppuStep_place s).1.trans hd⟩
    have hactions := renderingActions_sprites ((stepStart_rendering s).trans hr)
    rw [spriteCycle_off hdot] at hactions
    exact ⟨hactions.sprites.trans hkept.sprites, hactions.spriteCount.trans hkept.spriteCount,
      hactions.spriteOverflow.trans hkept.spriteOverflow⟩
  · rwa [renderingActions_off ((stepStart_rendering s).trans (Bool.eq_false_iff.mpr hr))]

/-- After the actions, only the vblank clear reaches the overflow flag, and nothing the slots and the count (R593). -/
theorem ppuStep_sprites (s : State) :
    (ppuStep s).ppu.sprites = (renderingActions (stepStart s)).ppu.sprites ∧
      (ppuStep s).ppu.spriteCount = (renderingActions (stepStart s)).ppu.spriteCount ∧
      (ppuStep s).ppu.spriteOverflow =
        if (ppuStep s).ppu.scanline = 261 ∧ (ppuStep s).ppu.dot = 1 then false
        else (renderingActions (stepStart s)).ppu.spriteOverflow := by
  by_cases h261 : (ppuStep s).ppu.scanline = 261 ∧ (ppuStep s).ppu.dot = 1
  · rw [if_pos h261, ppuStep_at261 h261.1 h261.2]
    exact ⟨rfl, rfl, rfl⟩
  rw [if_neg h261]
  by_cases h241 : (ppuStep s).ppu.scanline = 241 ∧ (ppuStep s).ppu.dot = 1
  · rw [ppuStep_at241 h241.1 h241.2]
    exact ⟨rfl, rfl, rfl⟩
  · rw [ppuStep_elsewhere h241 h261]
    exact ⟨rfl, rfl, rfl⟩

/-- Settles O47: the evaluation as pushes of the crossing entries; a row's pixel by its nibble; and the step that evaluates. -/
theorem spriteEvaluationKeepsEight : Obligations.SpriteEvaluationKeepsEight := by
  unfold Obligations.SpriteEvaluationKeepsEight
  refine ⟨fun s => ?evaluation, fun s tile attr row i hi => ?pattern, fun s => ?step⟩
  case evaluation =>
    intro h y hits t
    refine ⟨fun hvisible => ?visible, fun hpre => ?preRender⟩
    case visible =>
      have heval : evaluation s = _ := evaluation_eq (Ppu.spriteRow_visible hvisible) (List.range 64) ⟨0, s.ppu.sprites⟩
      have hcount : (evaluation s).count = hits.length := by
        rw [heval, pushes_count, List.length_map, Nat.zero_add]
        rfl
      refine ⟨?_, ?_, fun k i hk hhit => ?_⟩
      · show min (evaluation s).count 8 = _
        rw [hcount]
      · show (s.ppu.spriteOverflow || decide (8 < (evaluation s).count)) = _
        rw [hcount]
      · show (evaluation s).slots[k]? = _
        have hslot : (hits.map fun i => spriteSlot s i (s.ppu.scanline - y i))[k]? =
            some (spriteSlot s i (s.ppu.scanline - y i)) := by rw [List.getElem?_map, hhit]; rfl
        have hplace := pushes_slot (e := ⟨0, s.ppu.sprites⟩) _ hslot (by rw [Nat.zero_add]; exact hk)
        rw [Nat.zero_add] at hplace
        rw [heval]
        exact hplace
    case preRender =>
      have hnone (i : Nat) : s.ppu.spriteRow i = if (fun _ => false) i = true then some ((fun _ => 0) i) else none :=
        Ppu.spriteRow_preRender hpre i
      have heval : evaluation s = ⟨0, s.ppu.sprites⟩ := by
        rw [evaluation, evaluation_eq hnone, List.filter_false]
        rfl
      refine ⟨?_, ?_⟩
      · show min (evaluation s).count 8 = 0
        rw [heval]
        rfl
      · show (s.ppu.spriteOverflow || decide (8 < (evaluation s).count)) = _
        rw [heval]
        exact Bool.or_false _
  case pattern =>
    have hpixel := spritePattern_pixel s tile attr row hi
    refine ⟨fun h8 hrow => ?_, fun h16 hrow => ?_⟩
    · rw [← spriteAddress_8 h8]
      exact hpixel
    · rw [spriteAddress_16 h16 tile attr hrow] at hpixel
      exact hpixel
  case step =>
    intro q e here
    obtain ⟨hsprites, hcount, hoverflow⟩ := ppuStep_sprites s
    obtain ⟨hdot, hline⟩ := ppuStep_started s
    have hsame (h : here) : s.ppu.started.scanline = s.ppu.scanline := Ppu.started_line (hdot.symm.trans h.2 ▸ by decide)
    have hcycle (h : here) : SameSprites (renderingActions (stepStart s)).ppu (spriteCycle (stepStart s)).ppu :=
      renderingActions_sprites ((stepStart_rendering s).trans h.1)
    have hstart : (stepStart s).ppu.dot = q.dot ∧ (stepStart s).ppu.scanline = q.scanline :=
      ⟨(ppuStep_place s).1.symm, (ppuStep_place s).2.symm⟩
    have hnot261 (h : here) : ¬ ((ppuStep s).ppu.scanline = 261 ∧ (ppuStep s).ppu.dot = 1) := fun hc => by
      have := hc.2.symm.trans h.2
      omega
    refine ⟨fun h => hline.trans (hsame h), fun h hn => ?evaluates, fun h hn => ?clears, fun h => ?neither⟩
    case evaluates =>
      have hq := hcycle h
      rw [spriteCycle_evaluates (hstart.1.trans h.2) (hstart.2 ▸ hn)] at hq
      have he := evaluateSprites_stepStart (hsame h)
      rw [if_neg (hnot261 h)] at hoverflow
      exact ⟨hsprites.trans (hq.sprites.trans he.sprites), hcount.trans (hq.spriteCount.trans he.spriteCount),
        hoverflow.trans (hq.spriteOverflow.trans he.spriteOverflow)⟩
    case clears =>
      have hq := hcycle h
      rw [spriteCycle_clears (hstart.1.trans h.2) (hstart.2 ▸ hn), stepStart_ppu] at hq
      rw [if_neg (hnot261 h)] at hoverflow
      exact ⟨hsprites.trans hq.sprites, hcount.trans hq.spriteCount, hoverflow.trans hq.spriteOverflow⟩
    case neither =>
      have hq := renderingActions_sprites_off h
      rw [hq.spriteOverflow] at hoverflow
      exact ⟨hsprites.trans hq.sprites, hcount.trans hq.spriteCount, hoverflow⟩

end Sys2Proof.Machine
end

section
/-! SUPPORT. Bank offsets (62_mappers.md R655) and the load (70_reset_and_hazards.md R720 to R726): the zero-fill as the least
multiple, the machine a load leaves, and its invariant; the statements settled by them. -/

namespace Sys2Proof.Machine

open Sys2Proof.Claim

/-! ### Bank offsets -/

/-- The index a bank offset takes modulo the bank count (R655). -/
def signedBank (i : Int) : Int := if i ≥ 0x80 then i - 0x100 else i

theorem bankOffset_eq (i : Int) {size : Nat} (n : Nat) (hs : 0 < size) :
    bankOffset i size (n * size) = (signedBank i % (n : Int)).toNat * size := by
  rw [bankOffset, Nat.mul_div_cancel n hs]
  rfl

theorem signedBank_of_lt {i : Int} (h : i < 0x80) : signedBank i = i := if_neg (by omega)

theorem signedBank_of_ge {i : Int} (h : 0x80 ≤ i) (h' : i < 0x100) : signedBank i = signedBank (i - 0x100) := by
  rw [signedBank_of_lt (by omega : i - 0x100 < 0x80), signedBank, if_pos h]

/-- -1 is the last bank. -/
theorem neg_one_bank {n : Nat} (h : 0 < n) : (-1 % (n : Int)).toNat = n - 1 := by
  have hmod : -1 % (n : Int) = n - 1 := by
    rw [← Int.add_emod_right, Int.emod_eq_of_lt (by omega) (by omega)]
    omega
  omega

/-- Settles O50: a window at an offset fits by `bankOffset_room`; the rest by the index the offset takes. -/
theorem bankOffsetsStayInside : Obligations.BankOffsetsStayInside := by
  unfold Obligations.BankOffsetsStayInside
  intro size n i hs hn
  refine ⟨bankOffset_room i hs (Nat.mul_pos hn hs) (Nat.dvd_mul_left _ _), ?dvd, fun hlo hhi => ?low, fun hlo hhi => ?high, ?last⟩
  case dvd =>
    rw [bankOffset_eq i n hs]
    exact Nat.dvd_mul_left _ _
  case low =>
    obtain ⟨k, rfl⟩ := Int.eq_ofNat_of_zero_le hlo
    rw [bankOffset_eq _ n hs, signedBank_of_lt hhi]
    rfl
  case high => rw [bankOffset_eq i n hs, bankOffset_eq _ n hs, signedBank_of_ge hlo hhi]
  case last => rw [bankOffset_eq _ n hs, signedBank_of_lt (by omega), neg_one_bank hn]

/-! ### The load -/

/-- The zero-filled length is the least positive multiple of the unit that holds the array (R726). -/
theorem zeroFillLength_least {unit : Nat} (h : 0 < unit) (len : Nat) {m : Nat} (hm : 0 < m) (hd : unit ∣ m) (hl : len ≤ m) :
    zeroFillLength len unit ≤ m := by
  obtain ⟨k, rfl⟩ := hd
  have hk : 1 ≤ k := Nat.pos_of_mul_pos_left hm
  have hfill : (len + unit - 1) / unit ≤ k := by
    refine Nat.le_of_lt_succ (Nat.div_lt_of_lt_mul ?_)
    rw [Nat.mul_succ]
    omega
  rw [zeroFillLength, Nat.mul_comm]
  exact Nat.mul_le_mul_left _ (max_le hk hfill)

theorem prgUnit_eq (v : Variant) : prgUnit v = if v = .scanlineIrq then 0x2000 else 0x4000 := by cases v <;> rfl

theorem prgUnit_pos (v : Variant) : 0 < prgUnit v := by cases v <;> decide

theorem load_unknown {cfg : Config} {sel : Int} (prg chr : List Byte) (h : cfg.mapperSelector.lookup sel = none) :
    State.load cfg prg chr sel = .error (.unsupportedMapper sel) := by rw [State.load, h]

theorem load_known {cfg : Config} {sel : Int} {v : Variant} (prg chr : List Byte) (h : cfg.mapperSelector.lookup sel = some v) :
    State.load cfg prg chr sel = .ok (State.resetWith cfg (Cartridge.loaded cfg v prg chr)) := by rw [State.load, h]

/-- An answering load knows its selector. -/
theorem load_ok {cfg : Config} {prg chr : List Byte} {sel : Int} {s : State} (h : State.load cfg prg chr sel = .ok s) :
    ∃ v, s = State.resetWith cfg (Cartridge.loaded cfg v prg chr) := by
  cases hv : cfg.mapperSelector.lookup sel with
  | none =>
    rw [load_unknown prg chr hv] at h
    cases h
  | some v =>
    rw [load_known prg chr hv] at h
    cases h
    exact ⟨v, rfl⟩

/-- The program counter after a reset is the word that the bus reads at the reset vector (R720, 20_memory.md R114). -/
theorem resetWith_vector (cfg : Config) (cart : Cartridge) :
    memRead16 0xFFFC (State.resetWith cfg cart) = .ok (State.resetWith cfg cart).cpu.pc (State.resetWith cfg cart) :=
  readVector_eq_memRead16 (by decide) (by decide) _

/-- Settles O57: the load by its selector; the arrays by the zero-fill. -/
theorem loadFillsTheArrays : Obligations.LoadFillsTheArrays := by
  unfold Obligations.LoadFillsTheArrays
  intro cfg prg chr sel least
  have hleast {unit : Nat} (h : 0 < unit) (bytes : List Byte) : least (Rom.ofBytes bytes unit).len bytes.length unit := by
    obtain ⟨hpos, hdvd, hholds⟩ := zeroFillLength_spec h bytes.length
    exact ⟨hpos, hdvd, hholds, fun m hm hd hl => zeroFillLength_least h _ hm hd hl⟩
  refine ⟨load_unknown prg chr, fun v hv => ⟨_, load_known prg chr hv, ?prg, hleast (by decide) chr, Rom.read_ofBytes prg _,
    Rom.read_ofBytes chr _, rfl, rfl, rfl, resetWith_vector cfg _⟩⟩
  case prg =>
    rw [← prgUnit_eq]
    exact hleast (prgUnit_pos v) prg

/-! ### What a load leaves -/

theorem pack_reset : Flags.reset.pack = 0x24#8 := by decide

theorem loaded_fixedChr {cfg : Config} {p c : Nat} {v : Variant} {st : FixedChr} (h : Mapper.loaded cfg p c v = .fixedChr st) :
    st = ⟨0⟩ := by
  cases v <;> cases h
  rfl

theorem loaded_shiftReg {cfg : Config} {p c : Nat} {v : Variant} {st : ShiftReg} (h : Mapper.loaded cfg p c v = .shiftReg st) :
    st = ShiftReg.loaded cfg.mmc1InitialControl p c := by
  cases v <;> cases h
  rfl

theorem loaded_scanlineIrq {cfg : Config} {p c : Nat} {v : Variant} {st : ScanlineIrq}
    (h : Mapper.loaded cfg p c v = .scanlineIrq st) : st = ScanlineIrq.loaded p := by
  cases v <;> cases h
  rfl

/-- Settles O58: the reset's values in every unit; the variant's by the variant the load chose. -/
theorem loadResetsTheMachine : Obligations.LoadResetsTheMachine := by
  unfold Obligations.LoadResetsTheMachine
  intro cfg prg chr sel s h
  obtain ⟨v, rfl⟩ := load_ok h
  refine ⟨⟨rfl, pack_reset, rfl, resetWith_vector cfg _⟩, ?cpu, ?registers, ?rendering, fun st hst => ?fixedChr,
    fun st hst => ?shiftReg, fun st hst => ?scanlineIrq⟩
  case cpu => exact ⟨rfl, rfl, rfl, rfl, rfl, fun _ => rfl, rfl, rfl, rfl, rfl, rfl, rfl⟩
  case registers =>
    exact ⟨rfl, rfl, rfl, rfl, rfl, rfl, rfl, rfl, rfl, rfl, rfl, rfl, rfl, rfl, fun _ => rfl, rfl, fun _ => rfl, fun _ => rfl,
      rfl, rfl, rfl, rfl, rfl⟩
  case rendering =>
    exact ⟨rfl, rfl, rfl, rfl, rfl, rfl, fun i => Vector.getElem_replicate .., fun _ => rfl, fun _ => rfl⟩
  case fixedChr => rw [loaded_fixedChr hst]
  case shiftReg =>
    rw [loaded_shiftReg hst]
    exact ⟨rfl, rfl, rfl, rfl, rfl, rfl⟩
  case scanlineIrq =>
    rw [loaded_scanlineIrq hst]
    exact ⟨rfl, rfl, rfl, fun i => Vector.getElem_replicate .., rfl, rfl, rfl, rfl, fun i => Vector.getElem_replicate ..⟩

/-! ### The invariant of a loaded machine -/

theorem Mapper.loaded_prgUnit (cfg : Config) (p c : Nat) (v : Variant) :
    (Mapper.loaded cfg p c v).prgUnit = Machine.prgUnit v := by
  cases v <;> rfl

/-- A loaded cartridge: its arrays are filled to their units, so its first windows lie inside them (R726). -/
theorem Cartridge.loaded_inv (cfg : Config) (v : Variant) (prg chr : List Byte) : (Cartridge.loaded cfg v prg chr).Inv := by
  obtain ⟨hprgPos, hprgDvd, -⟩ := zeroFillLength_spec (prgUnit_pos v) prg.length
  obtain ⟨hchrPos, hchrDvd, -⟩ := zeroFillLength_spec (by decide : 0 < 0x2000) chr.length
  have hprg : 0 < (Cartridge.loaded cfg v prg chr).prg.len ∧
      (Cartridge.loaded cfg v prg chr).mapper.prgUnit ∣ (Cartridge.loaded cfg v prg chr).prg.len :=
    ⟨hprgPos, (Mapper.loaded_prgUnit cfg _ _ v).symm ▸ hprgDvd⟩
  exact .ofRoom hprg ⟨hchrPos, hchrDvd⟩ (Mapper.loaded_room cfg v hprg ⟨hchrPos, hchrDvd⟩)
    (Rom.ofBytes_inv (prgUnit_pos v) prg) (Rom.ofBytes_inv (by decide) chr) Sparse.Inv.nil

theorem State.resetWith_inv (cfg : Config) {cart : Cartridge} (h : cart.Inv) : (State.resetWith cfg cart).Inv :=
  ⟨⟨rfl, rfl⟩, Sparse.Inv.nil, fun _ => rfl, fun _ => rfl, Ppu.reset_inv, h, rfl⟩

/-- Settles O59: the reset is a load, and a load leaves the reset's values over a loaded cartridge. -/
theorem resetAndLoadsMeetTheInvariant : Obligations.ResetAndLoadsMeetTheInvariant := by
  unfold Obligations.ResetAndLoadsMeetTheInvariant
  have hloads (cfg : Config) (prg chr : List Byte) (sel : Int) (s : State) (h : State.load cfg prg chr sel = .ok s) : s.Inv := by
    obtain ⟨v, rfl⟩ := load_ok h
    exact State.resetWith_inv cfg (Cartridge.loaded_inv cfg v prg chr)
  exact ⟨reset_is_load, rfl, rfl, rfl, rfl, hloads _ _ _ _ _ reset_is_load, hloads⟩

end Sys2Proof.Machine
end
